-- ==== Sys2Proof/Word.lean ====
section
/-! DEFINITION. The word types of the block: a register, FIFO or status word is 32 bits (`WORD`, 00_scope.md R7),
a byte 8 bits (R11), an endpoint number 4 bits (`N_EP_ENC` = 16, R7). -/

namespace Sys2Proof

/-- `WORD` = 32 (R7): a register, a FIFO word, a status word. -/
abbrev Word := BitVec 32

/-- One byte (R11). -/
abbrev Byte := BitVec 8

/-- An endpoint number, 0 to 15 (R35: "`n` is an endpoint number, 0 to 15"). -/
abbrev EpNum := BitVec 4

end Sys2Proof
end

