-- ==== Sys2Proof/Config.lean ====
section
/-! DEFINITION. What is fixed for one instance of the block: the names of the registers and fields it reaches
(10_state.md R34, R35), the OPEN parameters (00_scope.md R7) as one record `Params`, and the free values (`opaque`,
no body) for what the spec leaves open. The default values of the parameters are in Machine/Params.lean. -/

namespace Sys2Proof

/-- The registers of R35, an endpoint family under one name (the endpoint number is in `Reg`); and, as number `k`, a register of
the peripheral that R35 does not name, which only an entry of an OPEN list of writes can name (R79, R342 (5)). -/
inductive RegName where
  | otgCtl | ahbCfg | usbCfg | rstCtl | intSts | intMsk | rxStsPop | genCfg
  | devCfg | devCtl | devSts | inEvtMsk | outEvtMsk | epInt | epIntMsk
  | inCtl | inInt | inTsiz | inFifoSts
  | outCtl | outInt | outTsiz
  | fifo
  | other (k : Nat)
deriving DecidableEq, Repr

/-- One register: its name and, for a per-endpoint register, the endpoint number (0 for the others). -/
structure Reg where
  name : RegName
  n : EpNum
deriving DecidableEq, Repr

/-- How the peripheral treats a field, as far as the source implies it (R34). -/
inductive FieldKind where
  | status | config | command | w1c | port
deriving DecidableEq, Repr

/-- The named bit-fields of R35, the seven handled bits of `G.INT_STS` (R103), the four fields of a receive status word
(R105) and the inspected event bits (R109, R110); and, as number `k` of the register `reg`, a field of the peripheral that R35
does not list (R37), of the kind that the binding's author gives it, which only an entry of an OPEN list of writes can name
(R342 (5)). -/
inductive Field where
  | bSessionValid
  | globalIntEnable
  | turnaround
  | ahbIdle | txfFlush | rxfFlush | txfNum
  | mmis | rxflvl | usbrst | enumdne | iepint | oepint | srqint
  | rxEndpoint | rxByteCount | rxDataToggle | rxStatusKind
  | vbusSensing
  | devAddr
  | softDisconnect | clearGlobalInNak
  | enumSpeed
  | inPending | outPending
  | in0 | out0
  | inMpsiz | inActive | inStall | inCnak | inEpena
  | inPktcnt | inXfrsiz
  | spaceAvail
  | inXfrc | inEpdisd | inNak
  | outStall | outCnak | outEpena
  | outStupcnt | outPktcnt | outXfrsiz
  | outXfrc | outEpdisd | outStup | outOtepdis | outNak
  | other (reg : RegName) (kind : FieldKind) (k : Nat)
deriving DecidableEq, Repr

/-- One row of `RegMap` for a register (R7: "a word offset"): its byte offset, and the distance between two endpoints for a
register whose 16 instances stand at equal distances, as those of the default do (R75 to R78). The row holds for the endpoint
number `ep`, or for every endpoint number where `ep` is none; so any offsets can be bound. -/
structure RegRow where
  name : RegName
  ep : Option EpNum
  offset : Nat
  stride : Nat
deriving DecidableEq, Repr

/-- One row of `RegMap` for a field (R7: "bit range"): the position of its least significant bit and the number of its bits. The
row holds for the register of the endpoint number `ep`, or for every endpoint number where `ep` is none. -/
structure FieldRow where
  field : Field
  ep : Option EpNum
  lo : Nat
  width : Nat
deriving DecidableEq, Repr

/-- A value in a parameter list of writes: a number, the flag `cfg.vbus_sense`, `P_TRDT` (R282), or a number for each value of
the flag. The spec writes values only in its default lists; that an entry's value depends on the flag and the parameters alone
is the model's: DESIGN CHOICE (log 29). -/
inductive ParVal where
  | lit (v : Word)
  | vbusSense
  | trdt
  | byFlag (clear set : Word)
deriving DecidableEq, Repr

/-- One write of `INIT_WRITES`, `RESET_MASK_WRITES` or `ENUM_UNMASK_WRITES` (R282, R164, R167): a whole word or one
grouped field write. There is no read and no spin among them (R281). The lists are OPEN, and R342 (5) lets the platform extend
them: an entry may name any register and field that the binding binds (log 29). -/
inductive CfgWrite where
  | word (r : Reg) (v : ParVal)
  | fields (r : Reg) (fs : List (Field × ParVal))
deriving DecidableEq, Repr

/-- One entry of the Descriptor Table (R222). -/
structure DescEntry where
  descType : Byte
  index : Byte
  bytes : List Byte
deriving DecidableEq, Repr

/-- The OPEN parameters of R7. No operation writes one. `spinLimit = none` is "infinite" (R140). -/
structure Params where
  base : Word
  regs : List RegRow
  fields : List FieldRow
  rxkNak : Word
  rxkDataUpdate : Word
  rxkXferComplete : Word
  rxkSetupComplete : Word
  rxkSetupUpdate : Word
  reqGetStatus : Byte
  reqClearFeature : Byte
  reqSetFeature : Byte
  reqSetAddress : Byte
  reqGetDescriptor : Byte
  reqSetDescriptor : Byte
  reqGetConfiguration : Byte
  reqSetConfiguration : Byte
  reqGetInterface : Byte
  reqSetInterface : Byte
  reqSynchFrame : Byte
  dtDevice : Byte
  dtConfiguration : Byte
  dtString : Byte
  dtInterface : Byte
  dtEndpoint : Byte
  dtQualifier : Byte
  nEp : Nat
  trdt : Word
  flushTxfnum : Word
  spinLimit : Option Nat
  stallOnUnsupported : Bool
  initWrites : List CfgWrite
  resetMaskWrites : List CfgWrite
  enumUnmaskWrites : List CfgWrite
  descTable : List DescEntry
deriving DecidableEq, Repr

/-! Free values: no body, so nothing can be proved of one. Each is applied to the counter `State.freeCtr`, which
advances at every draw, so that two draws are not known to be equal (log 2, log 5). -/

/-- The environment's answer to a read that the list `State.answers` does not cover: R60, "returns a value chosen by the
environment, under no law this spec can state". -/
opaque Config.freeAnswer : Nat → Word

/-- `RESET_SETUP` (R7, R340): "unspecified; the model draws them". -/
opaque Config.resetSetup : Nat → BitVec 64

/-- `RESET_TXBUF` (R7, R340). -/
opaque Config.resetTxbuf : Nat → Vector Byte 64

/-- `RESET_SPEED` (R7, R340). -/
opaque Config.resetSpeed : Nat → BitVec 2

/-- Contents of `rxw` after RESET: unspecified (R340). -/
opaque Config.resetRxw : Nat → Word

/-- Contents of `snap` after RESET: unspecified (R340). -/
opaque Config.resetSnap : Nat → Word

/-- Contents of `idx` after RESET: unspecified (R340), 0 to 32 (R41). -/
opaque Config.resetIdx : Nat → Fin 33

/-- Contents of `agg` after RESET: unspecified (R340). -/
opaque Config.resetAgg : Nat → Word

/-- Contents of `epn` after RESET: unspecified (R340). -/
opaque Config.resetEpn : Nat → EpNum

/-- Contents of `evt` after RESET: unspecified (R340). -/
opaque Config.resetEvt : Nat → Word

/-- Contents of the write-TX word counter (R44) after RESET: not stated, like the other hidden registers. -/
opaque Config.resetTxk : Nat → BitVec 5

end Sys2Proof
end

