-- ==== Sys2Proof/Machine/Params.lean ====
section
/-! DEFINITION. The fields' widths and kinds (R35), how `RegMap` is read, the well-formedness conditions on a
configuration (R8, R65, R66, R222), the handler table (R182), and the default parameters (R7). -/

namespace Sys2Proof

/-! ## Fixed sizes (R7) -/

/-- `SETUP_LEN` = 8 bytes. -/
def setupLen : Nat := 8

/-- `TXBUF_CAP` = 64 bytes. -/
def txbufCap : Nat := 64

/-- `EP0_MPS` = 64 bytes. -/
def ep0Mps : Nat := 64

/-- `DEV_DESC_LEN` = 18 bytes. -/
def devDescLen : Nat := 18

/-- `CFG_DESC_LEN` = 25 = 9 + 9 + 7 bytes. -/
def cfgDescLen : Nat := 25

/-! ## Fields (R35) -/

/-- The width of a field in bits where the spec fixes it: the column "Width" of R35, and one bit for each bit of an event or
status word (R102, R109, R110). None for the fields of a receive status word, to which R105 gives a default alone, and for the
fields that R35 does not list: there the binding gives the width (log 24). -/
def Field.width : Field → Option Nat
  | .bSessionValid => some 1
  | .globalIntEnable => some 1
  | .turnaround => some 4
  | .ahbIdle => some 1
  | .txfFlush => some 1
  | .rxfFlush => some 1
  | .txfNum => some 5
  | .mmis => some 1
  | .rxflvl => some 1
  | .usbrst => some 1
  | .enumdne => some 1
  | .iepint => some 1
  | .oepint => some 1
  | .srqint => some 1
  | .rxEndpoint => none
  | .rxByteCount => none
  | .rxDataToggle => none
  | .rxStatusKind => none
  | .vbusSensing => some 1
  | .devAddr => some 7
  | .softDisconnect => some 1
  | .clearGlobalInNak => some 1
  | .enumSpeed => some 2
  | .inPending => some 16
  | .outPending => some 16
  | .in0 => some 1
  | .out0 => some 1
  | .inMpsiz => some 2
  | .inActive => some 1
  | .inStall => some 1
  | .inCnak => some 1
  | .inEpena => some 1
  | .inPktcnt => some 2
  | .inXfrsiz => some 7
  | .spaceAvail => some 16
  | .inXfrc => some 1
  | .inEpdisd => some 1
  | .inNak => some 1
  | .outStall => some 1
  | .outCnak => some 1
  | .outEpena => some 1
  | .outStupcnt => some 2
  | .outPktcnt => some 1
  | .outXfrsiz => some 7
  | .outXfrc => some 1
  | .outEpdisd => some 1
  | .outStup => some 1
  | .outOtepdis => some 1
  | .outNak => some 1
  | .other _ _ _ => none

/-- How the peripheral treats a field (R34, the "Kind" column of R35). -/
def Field.kind : Field → FieldKind
  | .bSessionValid | .ahbIdle | .enumSpeed | .inPending | .outPending | .inActive | .spaceAvail => .status
  | .txfFlush | .rxfFlush | .clearGlobalInNak | .inCnak | .inEpena | .outCnak | .outEpena => .command
  | .mmis | .rxflvl | .usbrst | .enumdne | .iepint | .oepint | .srqint => .w1c
  | .inXfrc | .inEpdisd | .inNak | .outXfrc | .outEpdisd | .outStup | .outOtepdis | .outNak => .w1c
  | .rxEndpoint | .rxByteCount | .rxDataToggle | .rxStatusKind => .port
  | .globalIntEnable | .turnaround | .txfNum | .vbusSensing | .devAddr | .softDisconnect => .config
  | .in0 | .out0 | .inMpsiz | .inStall | .inPktcnt | .inXfrsiz => .config
  | .outStall | .outStupcnt | .outPktcnt | .outXfrsiz => .config
  | .other _ k _ => k

/-- The kinds of which a 1 written is an action: `command` and `w1c` (R34, R352 (b)). -/
def FieldKind.actsOnOne (k : FieldKind) : Bool := k == .command || k == .w1c

/-- How the peripheral treats the whole word of a register that R35 lists as a whole word (the "Kind" column of R35). -/
def RegName.wordKind : RegName → Option FieldKind
  | .intSts | .inInt | .outInt => some .w1c
  | .intMsk | .inEvtMsk | .outEvtMsk => some .config
  | .rxStsPop | .fifo => some .port
  | .otgCtl | .ahbCfg | .usbCfg | .rstCtl | .genCfg | .devCfg | .devCtl | .devSts | .epInt | .epIntMsk => none
  | .inCtl | .inTsiz | .inFifoSts | .outCtl | .outTsiz => none
  | .other _ => none

/-- The seven handled bits of the aggregate interrupt status word (R103). -/
def gintFields : List Field := [.mmis, .rxflvl, .usbrst, .enumdne, .iepint, .oepint, .srqint]

/-- The bits the OUT endpoint handler inspects, in the order it inspects them (R109, R250). -/
def outEventFields : List Field := [.outXfrc, .outEpdisd, .outStup, .outOtepdis, .outNak]

/-- The bits the IN endpoint handler inspects, in the order it inspects them (R110, R255). -/
def inEventFields : List Field := [.inXfrc, .inEpdisd, .inNak]

/-- The fields of a register that R35 names. -/
def RegName.fields : RegName → List Field
  | .otgCtl => [.bSessionValid]
  | .ahbCfg => [.globalIntEnable]
  | .usbCfg => [.turnaround]
  | .rstCtl => [.ahbIdle, .txfFlush, .rxfFlush, .txfNum]
  | .intSts => gintFields
  | .intMsk => []
  | .rxStsPop => [.rxEndpoint, .rxByteCount, .rxDataToggle, .rxStatusKind]
  | .genCfg => [.vbusSensing]
  | .devCfg => [.devAddr]
  | .devCtl => [.softDisconnect, .clearGlobalInNak]
  | .devSts => [.enumSpeed]
  | .inEvtMsk => []
  | .outEvtMsk => []
  | .epInt => [.inPending, .outPending]
  | .epIntMsk => [.in0, .out0]
  | .inCtl => [.inMpsiz, .inActive, .inStall, .inCnak, .inEpena]
  | .inInt => inEventFields
  | .inTsiz => [.inPktcnt, .inXfrsiz]
  | .inFifoSts => [.spaceAvail]
  | .outCtl => [.outStall, .outCnak, .outEpena]
  | .outInt => outEventFields
  | .outTsiz => [.outStupcnt, .outPktcnt, .outXfrsiz]
  | .fifo => []
  | .other _ => []

/-- The fields that R35 names for endpoint 0 alone ("n = 0"). -/
def Field.ofEp0 : Field → Bool
  | .inMpsiz | .inPktcnt | .inXfrsiz | .outPktcnt | .outXfrsiz => true
  | _ => false

/-- Whether a register has an instance for each endpoint number (R35). A register that R35 does not name may have. -/
def RegName.perEndpoint : RegName → Bool
  | .inCtl | .inInt | .inTsiz | .inFifoSts | .outCtl | .outInt | .outTsiz | .fifo | .other _ => true
  | .otgCtl | .ahbCfg | .usbCfg | .rstCtl | .intSts | .intMsk | .rxStsPop | .genCfg => false
  | .devCfg | .devCtl | .devSts | .inEvtMsk | .outEvtMsk | .epInt | .epIntMsk => false

/-- Every register of R35. -/
def RegName.all : List RegName :=
  [.otgCtl, .ahbCfg, .usbCfg, .rstCtl, .intSts, .intMsk, .rxStsPop, .genCfg, .devCfg, .devCtl, .devSts, .inEvtMsk,
   .outEvtMsk, .epInt, .epIntMsk, .inCtl, .inInt, .inTsiz, .inFifoSts, .outCtl, .outInt, .outTsiz, .fifo]

/-- A register that is not per endpoint. -/
def Reg.glob (r : RegName) : Reg := ⟨r, 0⟩

/-! ## Reading `RegMap` -/

/-- The row of a field of the register of endpoint number `n` (0 for a register that is not per endpoint): the first that holds
there. -/
def Params.fieldRow (p : Params) (f : Field) (n : EpNum := 0#4) : Option FieldRow :=
  p.fields.find? (fun r => r.field == f && r.ep.all (· == n))

/-- The position of a field's least significant bit under the binding. -/
def Params.lo (p : Params) (f : Field) (n : EpNum := 0#4) : Nat :=
  match p.fieldRow f n with
  | some r => r.lo
  | none => 0

/-- The number of bits the binding gives a field. -/
def Params.rowWidth (p : Params) (f : Field) (n : EpNum := 0#4) : Nat :=
  match p.fieldRow f n with
  | some r => r.width
  | none => 0

/-- The width of a field under the binding: that of R35 where there is one, the binding's otherwise (log 24). -/
def Params.width (p : Params) (f : Field) (n : EpNum := 0#4) : Nat :=
  match f.width with
  | some w => w
  | none => p.rowWidth f n

/-- The row of the register of endpoint number `n`: the first that holds there. -/
def Params.regRow (p : Params) (r : Reg) : Option RegRow :=
  p.regs.find? (fun row => row.name == r.name && row.ep.all (· == r.n))

/-- Whether there is such a register: an instance of another number than 0 has only a per-endpoint register (R35). -/
def Reg.legal (r : Reg) : Bool := r.name.perEndpoint || r.n == 0

/-- Whether the binding names the register. -/
def Params.bindsReg (p : Params) (r : Reg) : Bool := r.legal && (p.regRow r).isSome

/-- The field of a row that gives `r` a field which R35 does not list. -/
def FieldRow.otherOf (r : Reg) (row : FieldRow) : Option Field :=
  match row.field with
  | .other q _ _ => if q = r.name && row.ep.all (· == r.n) then some row.field else none
  | _ => none

/-- The fields of a register: those of R35, and those that the binding adds (R37, R342 (5)). -/
def Params.fieldsOf (p : Params) (r : Reg) : List Field :=
  if r.legal then
    r.name.fields.filter (fun f => r.n == 0 || !f.ofEp0) ++ (p.fields.filterMap (FieldRow.otherOf r)).dedup
  else []

/-! ## The conditions on a configuration (R8) -/

/-- Every two different members of a list, in list order, satisfy `q`. -/
def allPairs {α : Type} (q : α → α → Bool) : List α → Bool
  | [] => true
  | a :: l => l.all (q a) && allPairs q l

/-- Whether the field has a row and its bit range has the width of R35, or at least one bit where R35 gives none (R7, R35,
R105), inside the word. -/
def Params.fieldOk (p : Params) (n : EpNum) (f : Field) : Bool :=
  match p.fieldRow f n with
  | some r => (match f.width with
    | some w => r.width == w
    | none => decide (0 < r.width)) && decide (r.lo + r.width ≤ 32)
  | none => false

/-- The two fields' bit ranges do not overlap. -/
def Params.disjoint (p : Params) (n : EpNum) (f g : Field) : Bool :=
  decide (p.lo f n + p.width f n ≤ p.lo g n) || decide (p.lo g n + p.width g n ≤ p.lo f n)

/-- The endpoint numbers that some row names. -/
def Params.ownEps (p : Params) : List EpNum := p.fields.filterMap FieldRow.ep ++ p.regs.filterMap RegRow.ep

/-- The endpoint numbers at which the conditions on a binding are looked at: those that some row names, and one other, which
stands for all others. -/
def Params.epReps (p : Params) : List EpNum :=
  p.ownEps ++ (((List.range 16).map (BitVec.ofNat 4)).find? (fun n => !p.ownEps.contains n)).toList

/-- The registers that R35 does not name and to which the binding gives a field. -/
def Params.otherNames (p : Params) : List RegName :=
  p.fields.filterMap (fun row => match row.field with
    | .other r _ _ => some r
    | _ => none)

/-- Whether `q` holds of the register at every endpoint number that is looked at. -/
def Params.atReps (p : Params) (q : Reg → Bool) (name : RegName) : Bool :=
  if name.perEndpoint then p.epReps.all (fun n => q ⟨name, n⟩) else q ⟨name, 0⟩

/-- R8 (a), (b), (f): in every register the fields are bound with their widths, lie inside the word and do not overlap; the
seven handled bits of `G.INT_STS` and the event bits of one event word are such fields, so they are different positions. -/
def Params.fieldsOk (p : Params) : Bool :=
  (RegName.all ++ p.otherNames).all
    (p.atReps (fun r => (p.fieldsOf r).all (p.fieldOk r.n) && allPairs (p.disjoint r.n) (p.fieldsOf r)))

/-- The five status-kind codes (R106). -/
def Params.rxkCodes (p : Params) : List Word :=
  [p.rxkNak, p.rxkDataUpdate, p.rxkXferComplete, p.rxkSetupComplete, p.rxkSetupUpdate]

/-- The eleven request codes (R115). -/
def Params.reqCodes (p : Params) : List Byte :=
  [p.reqGetStatus, p.reqClearFeature, p.reqSetFeature, p.reqSetAddress, p.reqGetDescriptor, p.reqSetDescriptor,
   p.reqGetConfiguration, p.reqSetConfiguration, p.reqGetInterface, p.reqSetInterface, p.reqSynchFrame]

/-- The six descriptor type tags (R116). -/
def Params.dtCodes (p : Params) : List Byte :=
  [p.dtDevice, p.dtConfiguration, p.dtString, p.dtInterface, p.dtEndpoint, p.dtQualifier]

/-- R8 (c), (d), (e): the codes of each kind are different values, those of the status kinds values of that field. -/
def Params.codesOk (p : Params) : Bool :=
  p.rxkCodes.all (fun c => decide (c.toNat < 2 ^ p.width .rxStatusKind)) &&
    allPairs (fun a b => a != b) p.rxkCodes && allPairs (fun a b => a != b) p.reqCodes
    && allPairs (fun a b => a != b) p.dtCodes

/-- R65: every register is bound, and every offset and stride is divisible by 4, from a base that is divisible by 4 (log 15): no
access of the block is misaligned. -/
def Params.offsetsOk (p : Params) : Bool :=
  p.base.toNat % 4 == 0 && p.regs.all (fun r => r.offset % 4 == 0 && r.stride % 4 == 0) &&
    RegName.all.all (p.atReps p.bindsReg)

/-- An entry of a list of writes names a register that the binding names and fields of that register (R66: "each listed field of
`R`"; log 15). An entry may name one field twice, of which R66 says nothing: DESIGN CHOICE (log 31). -/
def Params.entryOk (p : Params) : CfgWrite → Bool
  | .word r _ => p.bindsReg r
  | .fields r fs => p.bindsReg r && fs.all (fun x => (p.fieldsOf r).contains x.1)

/-- The entries of the three lists of writes. -/
def Params.writesOk (p : Params) : Bool :=
  p.initWrites.all p.entryOk && p.resetMaskWrites.all p.entryOk && p.enumUnmaskWrites.all p.entryOk

/-- R222 (a): every entry of the Descriptor Table is at most `TXBUF_CAP` bytes long. -/
def Params.descOk (p : Params) : Bool := p.descTable.all (fun e => decide (e.bytes.length ≤ txbufCap))

/-- A configuration the model accepts (R8, R65, R66, R222). -/
def Params.wf (p : Params) : Bool := p.fieldsOk && p.codesOk && p.offsetsOk && p.descOk && p.writesOk

/-! ## The handler table (R182) -/

/-- The handled event bound to bit `j` of `G.INT_STS`, if there is one (R182: "defined for exactly the seven positions
that `RegMap` binds to the seven events"). -/
def Params.handlerAt (p : Params) (j : Nat) : Option Field := gintFields.find? (fun f => p.lo f == j)

/-- R82: the lookup in the Descriptor Table; the first entry with the key answers (log 25). -/
def Params.descLookup (p : Params) (t i : Byte) : Option (List Byte) :=
  match p.descTable.find? (fun e => e.descType == t && e.index == i) with
  | some e => some e.bytes
  | none => none

/-! ## The defaults of R7 -/

/-- R75 to R78, the offsets. -/
def defaultRegs : List RegRow :=
  [⟨.otgCtl, none, 0x000, 0⟩, ⟨.ahbCfg, none, 0x008, 0⟩, ⟨.usbCfg, none, 0x00C, 0⟩, ⟨.rstCtl, none, 0x010, 0⟩,
   ⟨.intSts, none, 0x014, 0⟩, ⟨.intMsk, none, 0x018, 0⟩, ⟨.rxStsPop, none, 0x020, 0⟩, ⟨.genCfg, none, 0x038, 0⟩,
   ⟨.devCfg, none, 0x800, 0⟩, ⟨.devCtl, none, 0x804, 0⟩, ⟨.devSts, none, 0x808, 0⟩, ⟨.inEvtMsk, none, 0x810, 0⟩,
   ⟨.outEvtMsk, none, 0x814, 0⟩, ⟨.epInt, none, 0x818, 0⟩, ⟨.epIntMsk, none, 0x81C, 0⟩, ⟨.inCtl, none, 0x900, 0x20⟩,
   ⟨.inInt, none, 0x908, 0x20⟩, ⟨.inTsiz, none, 0x910, 0x20⟩, ⟨.inFifoSts, none, 0x918, 0x20⟩,
   ⟨.outCtl, none, 0xB00, 0x20⟩, ⟨.outInt, none, 0xB08, 0x20⟩, ⟨.outTsiz, none, 0xB10, 0x20⟩,
   ⟨.fifo, none, 0x1000, 0x1000⟩]

/-- R75 and R76 (global and device group), R102 (bits of `G.INT_STS`), R105 (receive status word), R108. -/
def defaultCoreFields : List FieldRow :=
  [⟨.bSessionValid, none, 19, 1⟩, ⟨.globalIntEnable, none, 0, 1⟩, ⟨.turnaround, none, 10, 4⟩, ⟨.rxfFlush, none, 4, 1⟩,
   ⟨.txfFlush, none, 5, 1⟩, ⟨.txfNum, none, 6, 5⟩, ⟨.ahbIdle, none, 31, 1⟩, ⟨.mmis, none, 1, 1⟩, ⟨.rxflvl, none, 4, 1⟩,
   ⟨.usbrst, none, 12, 1⟩, ⟨.enumdne, none, 13, 1⟩, ⟨.iepint, none, 18, 1⟩, ⟨.oepint, none, 19, 1⟩,
   ⟨.srqint, none, 30, 1⟩, ⟨.rxEndpoint, none, 0, 4⟩, ⟨.rxByteCount, none, 4, 11⟩, ⟨.rxDataToggle, none, 15, 2⟩,
   ⟨.rxStatusKind, none, 17, 4⟩, ⟨.vbusSensing, none, 19, 1⟩, ⟨.devAddr, none, 4, 7⟩, ⟨.softDisconnect, none, 1, 1⟩,
   ⟨.clearGlobalInNak, none, 8, 1⟩, ⟨.enumSpeed, none, 1, 2⟩, ⟨.inPending, none, 0, 16⟩, ⟨.outPending, none, 16, 16⟩,
   ⟨.in0, none, 0, 1⟩, ⟨.out0, none, 16, 1⟩]

/-- R77 and R78 (endpoint groups), R109, R110. -/
def defaultEndpointFields : List FieldRow :=
  [⟨.inMpsiz, none, 0, 2⟩, ⟨.inActive, none, 15, 1⟩, ⟨.inStall, none, 21, 1⟩, ⟨.inCnak, none, 26, 1⟩,
   ⟨.inEpena, none, 31, 1⟩, ⟨.inXfrsiz, none, 0, 7⟩, ⟨.inPktcnt, none, 19, 2⟩, ⟨.spaceAvail, none, 0, 16⟩,
   ⟨.inXfrc, none, 0, 1⟩, ⟨.inEpdisd, none, 1, 1⟩, ⟨.inNak, none, 13, 1⟩, ⟨.outStall, none, 21, 1⟩,
   ⟨.outCnak, none, 26, 1⟩, ⟨.outEpena, none, 31, 1⟩, ⟨.outXfrsiz, none, 0, 7⟩, ⟨.outPktcnt, none, 19, 1⟩,
   ⟨.outStupcnt, none, 29, 2⟩, ⟨.outXfrc, none, 0, 1⟩, ⟨.outEpdisd, none, 1, 1⟩, ⟨.outStup, none, 3, 1⟩,
   ⟨.outOtepdis, none, 4, 1⟩, ⟨.outNak, none, 13, 1⟩]

/-- R282, the default `INIT_WRITES`, five writes. -/
def defaultInitWrites : List CfgWrite :=
  [.fields (.glob .devCtl) [(.softDisconnect, .lit 1)],
   .fields (.glob .genCfg) [(.vbusSensing, .vbusSense)],
   .fields (.glob .usbCfg) [(.turnaround, .trdt)],
   .word (.glob .intMsk) (.lit 0x400C3012),
   .fields (.glob .ahbCfg) [(.globalIntEnable, .lit 1)]]

/-- R164, the default `RESET_MASK_WRITES`. -/
def defaultResetMaskWrites : List CfgWrite :=
  [.word (.glob .inEvtMsk) (.lit 0x00000001), .word (.glob .outEvtMsk) (.lit 0x00000009)]

/-- R167, the default `ENUM_UNMASK_WRITES`. -/
def defaultEnumUnmaskWrites : List CfgWrite := [.fields (.glob .epIntMsk) [(.in0, .lit 1), (.out0, .lit 1)]]

/-- The device descriptor `D` of the spec's test fixture (95_test_vectors.md section 0; log 8). -/
def fixtureDeviceDesc : List Byte :=
  [0x12, 0x01, 0x00, 0x02, 0x00, 0x00, 0x00, 0x40, 0x83, 0x04, 0x11, 0x57, 0x00, 0x01, 0x01, 0x02, 0x03, 0x01]

/-- The configuration descriptor `C` of the spec's test fixture (95_test_vectors.md section 0; log 8). -/
def fixtureConfigDesc : List Byte :=
  [0x09, 0x02, 0x19, 0x00, 0x01, 0x01, 0x00, 0xC0, 0x32] ++
  [0x09, 0x04, 0x00, 0x00, 0x01, 0x03, 0x00, 0x00, 0x00] ++
  [0x07, 0x05, 0x81, 0x03, 0x08, 0x00, 0x0A]

/-- The defaults of R7. PRESUMED by the spec itself: every number of the binding is from general knowledge (log 7). -/
def Params.default : Params where
  base := 0x50000000
  regs := defaultRegs
  fields := defaultCoreFields ++ defaultEndpointFields
  rxkNak := 1
  rxkDataUpdate := 2
  rxkXferComplete := 3
  rxkSetupComplete := 4
  rxkSetupUpdate := 6
  reqGetStatus := 0
  reqClearFeature := 1
  reqSetFeature := 3
  reqSetAddress := 5
  reqGetDescriptor := 6
  reqSetDescriptor := 7
  reqGetConfiguration := 8
  reqSetConfiguration := 9
  reqGetInterface := 10
  reqSetInterface := 11
  reqSynchFrame := 12
  dtDevice := 1
  dtConfiguration := 2
  dtString := 3
  dtInterface := 4
  dtEndpoint := 5
  dtQualifier := 6
  nEp := 4
  trdt := 6
  flushTxfnum := 0x10
  spinLimit := none
  stallOnUnsupported := false
  initWrites := defaultInitWrites
  resetMaskWrites := defaultResetMaskWrites
  enumUnmaskWrites := defaultEnumUnmaskWrites
  descTable := [⟨1, 0, fixtureDeviceDesc⟩, ⟨2, 0, fixtureConfigDesc⟩]

end Sys2Proof
end

