-- ==== Sys2Proof/Machine/Operands.lean ====
section
/-! DEFINITION. The operand forms: bit-fields under the binding (R9, R67), the views of the setup packet (R23 to R25,
R112, R113), the lowest set bit (R9, R108), the packing of transmit data (R63) and the whole arithmetic of the block
(R119). Everything is unsigned (R9, R11). -/

namespace Sys2Proof

/-! ## Bits and fields -/

/-- `1 << i` as a 32-bit one-hot word (R9, R119 (g)). -/
def oneHot (i : Nat) : Word := 1#32 <<< i

/-- `v` cut to `n` bits and zero-extended again (R11, R66). -/
def truncTo (n : Nat) (v : Word) : Word := (v.setWidth n).setWidth 32

/-- The value of field `f` in the word `w` under the binding, as a word: only the bits `hi:lo` of `f` are kept (R10, R67). `n`
is the endpoint number of the register that the word is of. -/
def Params.fieldOf (p : Params) (f : Field) (w : Word) (n : EpNum := 0#4) : Word := truncTo (p.width f n) (w >>> p.lo f n)

/-- `n` bits of `w` from the place of field `f` on, for a field whose width R35 fixes. -/
def Params.extract (p : Params) (f : Field) (n : Nat) (w : Word) : BitVec n := w.extractLsb' (p.lo f) n

/-- The value `v` put in place of field `f`, zeros elsewhere. -/
def Params.place (p : Params) (f : Field) {n : Nat} (v : BitVec n) : Word := v.setWidth 32 <<< p.lo f

/-- The one-hot word of a one-bit field: the acknowledgement word (R68, R121). -/
def Params.ackWord (p : Params) (f : Field) (n : EpNum := 0#4) : Word := oneHot (p.lo f n)

/-- The lowest position `j` in `from .. 31` with bit `j` of `w` set. -/
def nextSet (w : Word) (start : Nat) : Option Nat :=
  (List.range 32).find? (fun j => decide (start ≤ j) && w.getLsbD j)

/-- `ctz16` (R9): the index of the lowest set bit of a non-zero half; none for 0, where R9 defines no value. -/
def ctz16 (m : BitVec 16) : Option EpNum :=
  match (List.range 16).find? (fun j => m.getLsbD j) with
  | some j => some (BitVec.ofNat 4 j)
  | none => none

/-- The first place `k` in `start ..` of a list of event bits whose bit is set in the event word (R250, R255: the bits
are inspected in the listed order, all against one value), `n` being the endpoint. -/
def Params.nextEvent (p : Params) (n : EpNum) (evs : List Field) (w : Word) (start : Nat) : Option Nat :=
  (List.range evs.length).find? (fun k =>
    decide (start ≤ k) &&
      match evs[k]? with
      | some f => w.getLsbD (p.lo f n)
      | none => false)

/-! ## The setup packet (R23 to R25, R112) -/

/-- Byte `b[k]` (R23). -/
def setupByte (S : BitVec 64) (k : Nat) : Byte := S.extractLsb' (8 * k) 8

/-- Word `w[k]` (R23). -/
def setupWord (S : BitVec 64) (k : Nat) : Word := S.extractLsb' (32 * k) 32

/-- `ctx.setup.w[0] <- w` (R64). -/
def setSetupWord0 (S : BitVec 64) (w : Word) : BitVec 64 := setupWord S 1 ++ w

/-- `ctx.setup.w[1] <- w` (R64). -/
def setSetupWord1 (S : BitVec 64) (w : Word) : BitVec 64 := w ++ setupWord S 0

/-- The record whose bytes are `b0 .. b7`, `b0` first on the wire (R23, R112). -/
def setupOfBytes (b0 b1 b2 b3 b4 b5 b6 b7 : Byte) : BitVec 64 := b7 ++ b6 ++ b5 ++ b4 ++ b3 ++ b2 ++ b1 ++ b0

/-- `request_type` = b[0] (R24). -/
def setupRequestType (S : BitVec 64) : Byte := setupByte S 0

/-- `request` = b[1] (R24). -/
def setupRequest (S : BitVec 64) : Byte := setupByte S 1

/-- `value` = b[3], b[2] (R24). -/
def setupValue (S : BitVec 64) : BitVec 16 := S.extractLsb' 16 16

/-- `value_lo` = b[2] (R25). -/
def setupValueLo (S : BitVec 64) : Byte := setupByte S 2

/-- `value_hi` = b[3] (R25). -/
def setupValueHi (S : BitVec 64) : Byte := setupByte S 3

/-- `index` = b[5], b[4] (R24). -/
def setupIndex (S : BitVec 64) : BitVec 16 := S.extractLsb' 32 16

/-- `index_lo` = b[4] (R25). -/
def setupIndexLo (S : BitVec 64) : Byte := setupByte S 4

/-- `index_hi` = b[5] (R25). -/
def setupIndexHi (S : BitVec 64) : Byte := setupByte S 5

/-- `length` = b[7], b[6] (R24). -/
def setupLength (S : BitVec 64) : BitVec 16 := S.extractLsb' 48 16

/-- The operand of SET_ADDRESS: `value_lo[6:0]` (R113). -/
def setupAddress (S : BitVec 64) : BitVec 7 := (setupValueLo S).setWidth 7

/-! ## Transmit packing (R63, R119) -/

/-- `ceil4(n) = (n + 3) >> 2` (R9). -/
def ceil4 (n : Nat) : Nat := (n + 3) >>> 2

/-- Byte `i` of the packet: `data[i]` below `length`, 0 from there on (R63). -/
def packByte (data : List Byte) (length i : Nat) : Byte := if i < length then data.getD i 0 else 0

/-- `pack_word(data, length, k)` (R63). -/
def packWord (data : List Byte) (length k : Nat) : Word :=
  packByte data length (4 * k + 3) ++ packByte data length (4 * k + 2) ++
    packByte data length (4 * k + 1) ++ packByte data length (4 * k)

/-- `for j = 0 .. n-1: buf[j] <- bytes[j]` (R225): the first `n` bytes are replaced, the rest kept (R26). -/
def stageBytes (buf bytes : List Byte) (n : Nat) : List Byte := bytes.take n ++ buf.drop n

end Sys2Proof
end

