-- ==== Sys2Proof/Syntax.lean ====
section
/-! DEFINITION. The operations of the block, one constructor of `Instr` per row of spec/opcode_table.json (R122). An operand
is what the word or the caller supplies (R108, R113, R143, R281); a row without operands has none. -/

namespace Sys2Proof

/-- The causes of `Fatal` (R301, codes 1 to 6). -/
inductive Cause where
  | modeMismatch
  | setupEp
  | setupLen
  | stupEp
  | setAddressState
  | spinTimeout
deriving DecidableEq, Repr

/-- The two reasons of `TxAbort` (R306). -/
inductive TxAbort where
  | inactive
  | noSpace
deriving DecidableEq, Repr

/-- The operations. -/
inductive Instr where
  /-- RESET (R340). -/
  | reset
  /-- INIT (R281), operand: the VBUS flag. -/
  | init (vbus : Bool)
  /-- IRQ (R284). -/
  | irq
  /-- DISPATCH (R181). -/
  | dispatch
  /-- ACK_ONLY.b0 (R184), usual name CMOD. -/
  | ackOnlyB0
  /-- ACK_ONLY.b2 (R184), usual name OTGINT. -/
  | ackOnlyB2
  /-- ACK_ONLY.b3 (R184), usual name SOF. -/
  | ackOnlyB3
  /-- ACK_ONLY.b5 (R184), usual name NPTXFE. -/
  | ackOnlyB5
  /-- ACK_ONLY.b6 (R184), usual name GINAKEFF. -/
  | ackOnlyB6
  /-- ACK_ONLY.b7 (R184), usual name GONAKEFF. -/
  | ackOnlyB7
  /-- ACK_ONLY.b8 (R184), usual name reserved. -/
  | ackOnlyB8
  /-- ACK_ONLY.b9 (R184), usual name reserved. -/
  | ackOnlyB9
  /-- ACK_ONLY.b10 (R184), usual name ESUSP. -/
  | ackOnlyB10
  /-- ACK_ONLY.b11 (R184), usual name USBSUSP. -/
  | ackOnlyB11
  /-- ACK_ONLY.b14 (R184), usual name ISOODRP. -/
  | ackOnlyB14
  /-- ACK_ONLY.b15 (R184), usual name EOPF. -/
  | ackOnlyB15
  /-- ACK_ONLY.b16 (R184), usual name reserved. -/
  | ackOnlyB16
  /-- ACK_ONLY.b17 (R184), usual name reserved. -/
  | ackOnlyB17
  /-- ACK_ONLY.b20 (R184), usual name IISOIXFR. -/
  | ackOnlyB20
  /-- ACK_ONLY.b21 (R184), usual name IPXFR. -/
  | ackOnlyB21
  /-- ACK_ONLY.b22 (R184), usual name reserved. -/
  | ackOnlyB22
  /-- ACK_ONLY.b23 (R184), usual name reserved. -/
  | ackOnlyB23
  /-- ACK_ONLY.b24 (R184), usual name HPRTINT. -/
  | ackOnlyB24
  /-- ACK_ONLY.b25 (R184), usual name HCINT. -/
  | ackOnlyB25
  /-- ACK_ONLY.b26 (R184), usual name PTXFE. -/
  | ackOnlyB26
  /-- ACK_ONLY.b27 (R184), usual name reserved. -/
  | ackOnlyB27
  /-- ACK_ONLY.b28 (R184), usual name CIDSCHG. -/
  | ackOnlyB28
  /-- ACK_ONLY.b29 (R184), usual name DISCINT. -/
  | ackOnlyB29
  /-- ACK_ONLY.b31 (R184), usual name WKUPINT. -/
  | ackOnlyB31
  /-- EV_MODE_MISMATCH (R183). -/
  | evModeMismatch
  /-- EV_RX_STATUS (R201). -/
  | evRxStatus
  /-- EV_USB_RESET (R163). -/
  | evUsbReset
  /-- EV_ENUM_DONE (R166). -/
  | evEnumDone
  /-- EV_IN_EP (R255). -/
  | evInEp
  /-- EV_OUT_EP (R250). -/
  | evOutEp
  /-- EV_SESSION (R161). -/
  | evSession
  /-- RX_NAK (R204); operands of the six RX rows: the fields of the RX Status Event (R200),
  as wide as the binding makes them (R105). -/
  | rxNak (ep bc dt : Word)
  /-- RX_DATA_UPDATE (R205). -/
  | rxDataUpdate (ep bc dt : Word)
  /-- RX_XFER_COMPLETE (R206). -/
  | rxXferComplete (ep bc dt : Word)
  /-- RX_SETUP_COMPLETE (R208). -/
  | rxSetupComplete (ep bc dt : Word)
  /-- RX_SETUP_UPDATE (R203). -/
  | rxSetupUpdate (ep bc dt : Word)
  /-- RX_RESERVED (R207); its kind is none of the five codes. -/
  | rxReserved (kind ep bc dt : Word)
  /-- EPAGG_OUT (R108, R250), operand: the half OUT_PENDING. -/
  | epaggOut (pending : BitVec 16)
  /-- EPAGG_IN (R108, R255), operand: the half IN_PENDING. -/
  | epaggIn (pending : BitVec 16)
  /-- OEP_XFRC (R251). -/
  | oepXfrc (n : EpNum)
  /-- OEP_EPDISD (R253). -/
  | oepEpdisd (n : EpNum)
  /-- OEP_STUP (R252). -/
  | oepStup (n : EpNum)
  /-- OEP_OTEPDIS (R254). -/
  | oepOtepdis (n : EpNum)
  /-- OEP_NAK (R259). -/
  | oepNak (n : EpNum)
  /-- IEP_XFRC (R256). -/
  | iepXfrc (n : EpNum)
  /-- IEP_EPDISD (R257). -/
  | iepEpdisd (n : EpNum)
  /-- IEP_NAK (R258). -/
  | iepNak (n : EpNum)
  /-- REQ_GET_STATUS (R234). -/
  | reqGetStatus
  /-- REQ_CLEAR_FEATURE (R235). -/
  | reqClearFeature
  /-- REQ_SET_FEATURE (R236). -/
  | reqSetFeature
  /-- REQ_SET_ADDRESS (R224), operand: `value_lo[6:0]` (R113). -/
  | reqSetAddress (a : BitVec 7)
  /-- REQ_GET_DESCRIPTOR (R225), operands: `value_hi`, `value_lo`, `length` (R113). -/
  | reqGetDescriptor (t i : Byte) (len : BitVec 16)
  /-- REQ_SET_DESCRIPTOR (R237). -/
  | reqSetDescriptor
  /-- REQ_GET_CONFIGURATION (R238). -/
  | reqGetConfiguration
  /-- REQ_SET_CONFIGURATION (R239). -/
  | reqSetConfiguration
  /-- REQ_GET_INTERFACE (R240). -/
  | reqGetInterface
  /-- REQ_SET_INTERFACE (R241). -/
  | reqSetInterface
  /-- REQ_SYNCH_FRAME (R242). -/
  | reqSynchFrame
  /-- REQ_UNKNOWN (R243), operand: the request byte, none of the eleven codes. -/
  | reqUnknown (request : Byte)
  /-- GET_DESCRIPTOR.DEVICE (R226), operands: the index and the requested length. -/
  | getDescriptorDevice (i : Byte) (len : BitVec 16)
  /-- GET_DESCRIPTOR.CONFIGURATION (R227). -/
  | getDescriptorConfiguration (i : Byte) (len : BitVec 16)
  /-- GET_DESCRIPTOR.STRING (R228). -/
  | getDescriptorString
  /-- GET_DESCRIPTOR.INTERFACE (R230). -/
  | getDescriptorInterface
  /-- GET_DESCRIPTOR.ENDPOINT (R231). -/
  | getDescriptorEndpoint
  /-- GET_DESCRIPTOR.QUALIFIER (R232). -/
  | getDescriptorQualifier
  /-- GET_DESCRIPTOR.OTHER (R233), operand: the tag, none of the six. -/
  | getDescriptorOther (t : Byte)
  /-- FLUSH_TX (R141). -/
  | flushTx
  /-- FLUSH_RX (R142). -/
  | flushRx
  /-- WRITE_TX (R143), operands: the data and the length (`length` arguments are u16, R11). -/
  | writeTx (data : List Byte) (len : BitVec 16)
  /-- REARM_OUT (R144). -/
  | rearmOut (n : EpNum)
  /-- ZLP (R145). -/
  | zlp
  /-- ARM_SETUP_OUT0 (R165). -/
  | armSetupOut0
  /-- EP0_SETUP (R223). -/
  | ep0Setup
  /-- UNSUPPORTED (R244). -/
  | unsupported
  /-- STALL_EP0 (R229). -/
  | stallEp0
  /-- FATAL (R304), operand: the cause. -/
  | fatal (c : Cause)
  /-- TXABORT (R306), operand: the reason. -/
  | txabort (r : TxAbort)
deriving DecidableEq, Repr

end Sys2Proof
end

