-- ==== Sys2Proof/WellFormed.lean ====
section
/-! DEFINITION. Which terms of `Instr` are well formed under a configuration: the operands that the encoding or the caller
cannot supply are refused (R105, R107, R117, R143, R184). -/

namespace Sys2Proof

/-- The operands that every receive status word supplies are values of their fields (R105, R200). -/
def Params.rxOperandsOk (p : Params) (ep bc dt : Word) : Bool :=
  decide (ep.toNat < 2 ^ p.width .rxEndpoint) && decide (bc.toNat < 2 ^ p.width .rxByteCount) &&
    decide (dt.toNat < 2 ^ p.width .rxDataToggle)

/-- Well-formedness of an operation under the configuration `p`. -/
def Instr.wf (p : Params) : Instr → Bool
  | .ackOnlyB0 => (p.handlerAt 0).isNone
  | .ackOnlyB2 => (p.handlerAt 2).isNone
  | .ackOnlyB3 => (p.handlerAt 3).isNone
  | .ackOnlyB5 => (p.handlerAt 5).isNone
  | .ackOnlyB6 => (p.handlerAt 6).isNone
  | .ackOnlyB7 => (p.handlerAt 7).isNone
  | .ackOnlyB8 => (p.handlerAt 8).isNone
  | .ackOnlyB9 => (p.handlerAt 9).isNone
  | .ackOnlyB10 => (p.handlerAt 10).isNone
  | .ackOnlyB11 => (p.handlerAt 11).isNone
  | .ackOnlyB14 => (p.handlerAt 14).isNone
  | .ackOnlyB15 => (p.handlerAt 15).isNone
  | .ackOnlyB16 => (p.handlerAt 16).isNone
  | .ackOnlyB17 => (p.handlerAt 17).isNone
  | .ackOnlyB20 => (p.handlerAt 20).isNone
  | .ackOnlyB21 => (p.handlerAt 21).isNone
  | .ackOnlyB22 => (p.handlerAt 22).isNone
  | .ackOnlyB23 => (p.handlerAt 23).isNone
  | .ackOnlyB24 => (p.handlerAt 24).isNone
  | .ackOnlyB25 => (p.handlerAt 25).isNone
  | .ackOnlyB26 => (p.handlerAt 26).isNone
  | .ackOnlyB27 => (p.handlerAt 27).isNone
  | .ackOnlyB28 => (p.handlerAt 28).isNone
  | .ackOnlyB29 => (p.handlerAt 29).isNone
  | .ackOnlyB31 => (p.handlerAt 31).isNone
  | .rxReserved kind ep bc dt =>
    !p.rxkCodes.contains kind && decide (kind.toNat < 2 ^ p.width .rxStatusKind) && p.rxOperandsOk ep bc dt
  | .reqUnknown r => !p.reqCodes.contains r
  | .getDescriptorOther t => !p.dtCodes.contains t
  | .writeTx data len => decide (len.toNat ≤ txbufCap) && decide (len.toNat ≤ data.length)
  | .reset | .init _ | .irq | .dispatch => true
  | .evModeMismatch | .evRxStatus | .evUsbReset | .evEnumDone | .evInEp | .evOutEp | .evSession => true
  | .rxNak ep bc dt | .rxDataUpdate ep bc dt | .rxXferComplete ep bc dt => p.rxOperandsOk ep bc dt
  | .rxSetupComplete ep bc dt | .rxSetupUpdate ep bc dt => p.rxOperandsOk ep bc dt
  | .epaggOut _ | .epaggIn _ => true
  | .oepXfrc _ | .oepEpdisd _ | .oepStup _ | .oepOtepdis _ | .oepNak _ => true
  | .iepXfrc _ | .iepEpdisd _ | .iepNak _ => true
  | .reqGetStatus | .reqClearFeature | .reqSetFeature | .reqSetAddress _ | .reqGetDescriptor _ _ _ => true
  | .reqSetDescriptor | .reqGetConfiguration | .reqSetConfiguration | .reqGetInterface | .reqSetInterface => true
  | .reqSynchFrame => true
  | .getDescriptorDevice _ _ | .getDescriptorConfiguration _ _ => true
  | .getDescriptorString | .getDescriptorInterface | .getDescriptorEndpoint | .getDescriptorQualifier => true
  | .flushTx | .flushRx | .rearmOut _ | .zlp | .armSetupOut0 | .ep0Setup | .unsupported | .stallEp0 => true
  | .fatal _ | .txabort _ => true

end Sys2Proof
end

