-- ==== Sys2Proof/Decode.lean ====
section
/-! DEFINITION. The decoders of the five word formats (R100) and, after them, the encoder. What a decoder reads is a
`FetchWord`: a word together with its format and what the decoding place supplies (the bit index from which the dispatcher
goes on, the endpoint number, the place in the inspection order). Rows of format `entry` and `internal` have no bit pattern
(R122): they are selected by their caller and have no `FetchWord`. -/

namespace Sys2Proof

/-- A word at a decoding place (R100). -/
inductive FetchWord where
  /-- The snapshot, and the bit index from which the dispatcher goes on (R181). -/
  | gint (start : Nat) (w : Word)
  /-- A receive status word (R201). -/
  | rxsts (w : Word)
  /-- The aggregate word in the OUT handler (R250). -/
  | epaggOut (w : Word)
  /-- The aggregate word in the IN handler (R255). -/
  | epaggIn (w : Word)
  /-- The event word of OUT endpoint `n`, and the place in the inspection order from which to go on (R250). -/
  | outEvt (n : EpNum) (start : Nat) (w : Word)
  /-- The event word of IN endpoint `n` (R255). -/
  | inEvt (n : EpNum) (start : Nat) (w : Word)
  /-- The setup packet as the 64-bit number `S` (R112, R223). -/
  | setup8 (S : BitVec 64)
  /-- The operands by which GET_DESCRIPTOR selects its sub-operation (R225). -/
  | desc (t i : Byte) (len : BitVec 16)
deriving DecidableEq, Repr

/-- Why a decoder gives no operation. Neither is illegal (R117): the place that decodes goes on (Machine/Sequencer.lean). -/
inductive Reject where
  /-- No set bit is left to serve: the loop of R181, R250 or R255 has ended. -/
  | nothingLeft
  /-- Bit `j` of the snapshot is set, has no handler under this binding and no ACK_ONLY row in the table (log 20). -/
  | unassignedBit (j : Nat)
deriving DecidableEq, Repr

/-! ## The decoders -/

/-- The operation of a handled event (R182). -/
def eventInstr : Field → Option Instr
  | .mmis => some .evModeMismatch
  | .rxflvl => some .evRxStatus
  | .usbrst => some .evUsbReset
  | .enumdne => some .evEnumDone
  | .iepint => some .evInEp
  | .oepint => some .evOutEp
  | .srqint => some .evSession
  | _ => none

/-- The row ACK_ONLY.b<j> (R184). -/
def ackOnlyAt : Nat → Option Instr
  | 0 => some .ackOnlyB0
  | 2 => some .ackOnlyB2
  | 3 => some .ackOnlyB3
  | 5 => some .ackOnlyB5
  | 6 => some .ackOnlyB6
  | 7 => some .ackOnlyB7
  | 8 => some .ackOnlyB8
  | 9 => some .ackOnlyB9
  | 10 => some .ackOnlyB10
  | 11 => some .ackOnlyB11
  | 14 => some .ackOnlyB14
  | 15 => some .ackOnlyB15
  | 16 => some .ackOnlyB16
  | 17 => some .ackOnlyB17
  | 20 => some .ackOnlyB20
  | 21 => some .ackOnlyB21
  | 22 => some .ackOnlyB22
  | 23 => some .ackOnlyB23
  | 24 => some .ackOnlyB24
  | 25 => some .ackOnlyB25
  | 26 => some .ackOnlyB26
  | 27 => some .ackOnlyB27
  | 28 => some .ackOnlyB28
  | 29 => some .ackOnlyB29
  | 31 => some .ackOnlyB31
  | _ => none

/-- The operation of one set bit of the snapshot (R182, R184). -/
def decodeGintBit (p : Params) (j : Nat) : Except Reject Instr :=
  match p.handlerAt j with
  | some f =>
    match eventInstr f with
    | some i => .ok i
    | none => .error (.unassignedBit j)
  | none =>
    match ackOnlyAt j with
    | some i => .ok i
    | none => .error (.unassignedBit j)

/-- Format GINT (R101, R181): the lowest set bit at or above `start`. -/
def decodeGint (p : Params) (start : Nat) (w : Word) : Except Reject Instr :=
  match nextSet w start with
  | some j => decodeGintBit p j
  | none => .error .nothingLeft

/-- The operation of a receive status kind, with the event's other fields (R106, R107). -/
def decodeRxKind (p : Params) (kind ep bc dt : Word) : Instr :=
  if kind = p.rxkSetupUpdate then .rxSetupUpdate ep bc dt
  else if kind = p.rxkNak then .rxNak ep bc dt
  else if kind = p.rxkDataUpdate then .rxDataUpdate ep bc dt
  else if kind = p.rxkXferComplete then .rxXferComplete ep bc dt
  else if kind = p.rxkSetupComplete then .rxSetupComplete ep bc dt
  else .rxReserved kind ep bc dt

/-- Format RXSTS (R105, R201). -/
def decodeRxsts (p : Params) (w : Word) : Instr :=
  decodeRxKind p (p.fieldOf .rxStatusKind w) (p.fieldOf .rxEndpoint w) (p.fieldOf .rxByteCount w)
    (p.fieldOf .rxDataToggle w)

/-- The OUT operation at place `k` of the inspection order (R109). -/
def outEventInstr (n : EpNum) : Nat → Option Instr
  | 0 => some (.oepXfrc n)
  | 1 => some (.oepEpdisd n)
  | 2 => some (.oepStup n)
  | 3 => some (.oepOtepdis n)
  | 4 => some (.oepNak n)
  | _ => none

/-- The IN operation at place `k` of the inspection order (R110). -/
def inEventInstr (n : EpNum) : Nat → Option Instr
  | 0 => some (.iepXfrc n)
  | 1 => some (.iepEpdisd n)
  | 2 => some (.iepNak n)
  | _ => none

/-- Format EPEVT (R109, R110): the next inspected set bit, in the inspection order. -/
def decodeEvents (p : Params) (n : EpNum) (evs : List Field) (instrAt : Nat → Option Instr) (start : Nat) (w : Word) :
    Except Reject Instr :=
  match p.nextEvent n evs w start with
  | some k =>
    match instrAt k with
    | some i => .ok i
    | none => .error .nothingLeft
  | none => .error .nothingLeft

/-- Format SETUP8 (R115, R223): the request byte alone selects (R113). -/
def decodeSetup (p : Params) (S : BitVec 64) : Instr :=
  let r := setupRequest S
  if r = p.reqSetAddress then .reqSetAddress (setupAddress S)
  else if r = p.reqGetDescriptor then .reqGetDescriptor (setupValueHi S) (setupValueLo S) (setupLength S)
  else if r = p.reqGetStatus then .reqGetStatus
  else if r = p.reqClearFeature then .reqClearFeature
  else if r = p.reqSetFeature then .reqSetFeature
  else if r = p.reqSetDescriptor then .reqSetDescriptor
  else if r = p.reqGetConfiguration then .reqGetConfiguration
  else if r = p.reqSetConfiguration then .reqSetConfiguration
  else if r = p.reqGetInterface then .reqGetInterface
  else if r = p.reqSetInterface then .reqSetInterface
  else if r = p.reqSynchFrame then .reqSynchFrame
  else .reqUnknown r

/-- The sub-operation of GET_DESCRIPTOR (R116, R225): the tag selects. -/
def decodeDesc (p : Params) (t i : Byte) (len : BitVec 16) : Instr :=
  if t = p.dtDevice then .getDescriptorDevice i len
  else if t = p.dtConfiguration then .getDescriptorConfiguration i len
  else if t = p.dtString then .getDescriptorString
  else if t = p.dtInterface then .getDescriptorInterface
  else if t = p.dtEndpoint then .getDescriptorEndpoint
  else if t = p.dtQualifier then .getDescriptorQualifier
  else .getDescriptorOther t

/-- The decoder, total on every word at every decoding place. -/
def decode (p : Params) : FetchWord → Except Reject Instr
  | .gint start w => decodeGint p start w
  | .rxsts w => .ok (decodeRxsts p w)
  | .epaggOut w => .ok (.epaggOut (p.extract .outPending 16 w))
  | .epaggIn w => .ok (.epaggIn (p.extract .inPending 16 w))
  | .outEvt n start w => decodeEvents p n outEventFields (outEventInstr n) start w
  | .inEvt n start w => decodeEvents p n inEventFields (inEventInstr n) start w
  | .setup8 S => .ok (decodeSetup p S)
  | .desc t i len => .ok (decodeDesc p t i len)

/-! ## The encoder -/

/-- A receive status word with the four extracted fields; the bits that are not extracted are 0 (R105). -/
def encodeRxsts (p : Params) (kind ep bc dt : Word) : Word :=
  p.place .rxStatusKind kind ||| p.place .rxEndpoint ep ||| p.place .rxByteCount bc ||| p.place .rxDataToggle dt

/-- A setup packet with the decoded fields; the fields no operation decodes are 0 (R112, R114). -/
def encodeSetup (request valueLo valueHi : Byte) (len : BitVec 16) : BitVec 64 :=
  setupOfBytes 0 request valueLo valueHi 0 0 (len.extractLsb' 0 8) (len.extractLsb' 8 8)

/-- The encoder: the word of an operation, at the place where its format is decoded; none for the rows of format `entry`
and `internal`, which have no bit pattern (R122). -/
def encode (p : Params) : Instr → Option FetchWord
  | .ackOnlyB0 => some (.gint 0 (oneHot 0))
  | .ackOnlyB2 => some (.gint 0 (oneHot 2))
  | .ackOnlyB3 => some (.gint 0 (oneHot 3))
  | .ackOnlyB5 => some (.gint 0 (oneHot 5))
  | .ackOnlyB6 => some (.gint 0 (oneHot 6))
  | .ackOnlyB7 => some (.gint 0 (oneHot 7))
  | .ackOnlyB8 => some (.gint 0 (oneHot 8))
  | .ackOnlyB9 => some (.gint 0 (oneHot 9))
  | .ackOnlyB10 => some (.gint 0 (oneHot 10))
  | .ackOnlyB11 => some (.gint 0 (oneHot 11))
  | .ackOnlyB14 => some (.gint 0 (oneHot 14))
  | .ackOnlyB15 => some (.gint 0 (oneHot 15))
  | .ackOnlyB16 => some (.gint 0 (oneHot 16))
  | .ackOnlyB17 => some (.gint 0 (oneHot 17))
  | .ackOnlyB20 => some (.gint 0 (oneHot 20))
  | .ackOnlyB21 => some (.gint 0 (oneHot 21))
  | .ackOnlyB22 => some (.gint 0 (oneHot 22))
  | .ackOnlyB23 => some (.gint 0 (oneHot 23))
  | .ackOnlyB24 => some (.gint 0 (oneHot 24))
  | .ackOnlyB25 => some (.gint 0 (oneHot 25))
  | .ackOnlyB26 => some (.gint 0 (oneHot 26))
  | .ackOnlyB27 => some (.gint 0 (oneHot 27))
  | .ackOnlyB28 => some (.gint 0 (oneHot 28))
  | .ackOnlyB29 => some (.gint 0 (oneHot 29))
  | .ackOnlyB31 => some (.gint 0 (oneHot 31))
  | .evModeMismatch => some (.gint 0 (p.ackWord .mmis))
  | .evRxStatus => some (.gint 0 (p.ackWord .rxflvl))
  | .evUsbReset => some (.gint 0 (p.ackWord .usbrst))
  | .evEnumDone => some (.gint 0 (p.ackWord .enumdne))
  | .evInEp => some (.gint 0 (p.ackWord .iepint))
  | .evOutEp => some (.gint 0 (p.ackWord .oepint))
  | .evSession => some (.gint 0 (p.ackWord .srqint))
  | .rxNak ep bc dt => some (.rxsts (encodeRxsts p p.rxkNak ep bc dt))
  | .rxDataUpdate ep bc dt => some (.rxsts (encodeRxsts p p.rxkDataUpdate ep bc dt))
  | .rxXferComplete ep bc dt => some (.rxsts (encodeRxsts p p.rxkXferComplete ep bc dt))
  | .rxSetupComplete ep bc dt => some (.rxsts (encodeRxsts p p.rxkSetupComplete ep bc dt))
  | .rxSetupUpdate ep bc dt => some (.rxsts (encodeRxsts p p.rxkSetupUpdate ep bc dt))
  | .rxReserved kind ep bc dt => some (.rxsts (encodeRxsts p kind ep bc dt))
  | .epaggOut m => some (.epaggOut (p.place .outPending m))
  | .epaggIn m => some (.epaggIn (p.place .inPending m))
  | .oepXfrc n => some (.outEvt n 0 (p.ackWord .outXfrc n))
  | .oepEpdisd n => some (.outEvt n 0 (p.ackWord .outEpdisd n))
  | .oepStup n => some (.outEvt n 0 (p.ackWord .outStup n))
  | .oepOtepdis n => some (.outEvt n 0 (p.ackWord .outOtepdis n))
  | .oepNak n => some (.outEvt n 0 (p.ackWord .outNak n))
  | .iepXfrc n => some (.inEvt n 0 (p.ackWord .inXfrc n))
  | .iepEpdisd n => some (.inEvt n 0 (p.ackWord .inEpdisd n))
  | .iepNak n => some (.inEvt n 0 (p.ackWord .inNak n))
  | .reqGetStatus => some (.setup8 (encodeSetup p.reqGetStatus 0 0 0))
  | .reqClearFeature => some (.setup8 (encodeSetup p.reqClearFeature 0 0 0))
  | .reqSetFeature => some (.setup8 (encodeSetup p.reqSetFeature 0 0 0))
  | .reqSetAddress a => some (.setup8 (encodeSetup p.reqSetAddress (a.setWidth 8) 0 0))
  | .reqGetDescriptor t i len => some (.setup8 (encodeSetup p.reqGetDescriptor i t len))
  | .reqSetDescriptor => some (.setup8 (encodeSetup p.reqSetDescriptor 0 0 0))
  | .reqGetConfiguration => some (.setup8 (encodeSetup p.reqGetConfiguration 0 0 0))
  | .reqSetConfiguration => some (.setup8 (encodeSetup p.reqSetConfiguration 0 0 0))
  | .reqGetInterface => some (.setup8 (encodeSetup p.reqGetInterface 0 0 0))
  | .reqSetInterface => some (.setup8 (encodeSetup p.reqSetInterface 0 0 0))
  | .reqSynchFrame => some (.setup8 (encodeSetup p.reqSynchFrame 0 0 0))
  | .reqUnknown r => some (.setup8 (encodeSetup r 0 0 0))
  | .getDescriptorDevice i len => some (.desc p.dtDevice i len)
  | .getDescriptorConfiguration i len => some (.desc p.dtConfiguration i len)
  | .getDescriptorString => some (.desc p.dtString 0 0)
  | .getDescriptorInterface => some (.desc p.dtInterface 0 0)
  | .getDescriptorEndpoint => some (.desc p.dtEndpoint 0 0)
  | .getDescriptorQualifier => some (.desc p.dtQualifier 0 0)
  | .getDescriptorOther t => some (.desc t 0 0)
  | .reset | .init _ | .irq | .dispatch => none
  | .flushTx | .flushRx | .writeTx _ _ | .rearmOut _ | .zlp | .armSetupOut0 | .ep0Setup | .unsupported => none
  | .stallEp0 | .fatal _ | .txabort _ => none

/-! ## Words numbered as opcode_table.json numbers them -/

/-- The word `w` as a one-hot GINT word. -/
def isOneHot (w : Nat) : Bool := (List.range 32).any (fun j => w == 2 ^ j)

/-- The place at which a word of `nbits` bits is decoded, under the default binding. The table's words do not say their
format (the same word is a row of several formats), so this is the model's choice among them (log 12): above 32 bits SETUP8;
a one-hot word GINT; up to 16 bits SETUP8, or the IN half of EPAGG where bits 7:0 are not 0; up to 24 bits RXSTS; up to 32
bits the sub-rows of GET_DESCRIPTOR where the request byte is GET_DESCRIPTOR and a tag stands above it, RXSTS where bits
31:21 are 0 and some bit is set, the OUT half of EPAGG otherwise. -/
def tableFetch (nbits w : Nat) : Option FetchWord :=
  let S : BitVec 64 := BitVec.ofNat 64 w
  let x : Word := BitVec.ofNat 32 w
  let sub : Bool := setupRequest S == Params.default.reqGetDescriptor && setupValueHi S != 0
  let subWord : FetchWord := .desc (setupValueHi S) (setupValueLo S) (setupLength S)
  if nbits = 0 ∨ 64 < nbits ∨ 2 ^ nbits ≤ w then none
  else if 32 < nbits then (if sub then some subWord else some (.setup8 S))
  else if isOneHot w then some (.gint 0 x)
  else if nbits ≤ 16 then (if w % 256 = 0 then some (.setup8 S) else some (.epaggIn x))
  else if nbits ≤ 24 then some (.rxsts x)
  else if sub then some subWord
  else if 0 < w ∧ w < 2 ^ 21 then some (.rxsts x)
  else some (.epaggOut x)

/-- The operation the decoder reads from a table word (default binding). -/
def decodeTableWord (nbits w : Nat) : Option Instr :=
  match tableFetch nbits w with
  | some fw =>
    match decode Params.default fw with
    | .ok i => some i
    | .error _ => none
  | none => none

end Sys2Proof
end

