-- ==== Sys2Proof/Machine/State.lean ====
section
/-! DEFINITION. The state of the machine as plain data: everything 10_state.md gives the block, the parameters, the inputs
from the platform host and the environment, and the trace (00_scope.md R12). `State.reset` is the machine right after reset
(R45, R340). -/

namespace Sys2Proof.Machine

/-- `seq` (R29, R311). -/
inductive Mode where
  | preInit
  | idle
  | handler
  | halted
deriving DecidableEq, Repr

/-- `DeviceState` (R21). Codes 6 and 7 have no constructor: "a model refuses a launch state that holds one" (log 21). -/
inductive DeviceState where
  | uninitialized
  | powered
  | resettingBus
  | defaultAddress
  | addressed
  | suspended
deriving DecidableEq, Repr

/-- `tx_status` (R32). Code 3 has no constructor ("3 is never written"). -/
inductive TxStatus where
  | ok
  | abortInactive
  | abortNoSpace
deriving DecidableEq, Repr

/-- One trace record (R10, R12, R120). -/
inductive Record where
  /-- `RD R -> v`. -/
  | rdWord (r : Reg) (v : Word)
  /-- `RD R.F -> v`. -/
  | rd (r : Reg) (f : Field) (v : Word)
  /-- `WR R <- v`. -/
  | wr (r : Reg) (v : Word)
  /-- `WR R.F1=v1,...`. -/
  | wrFields (r : Reg) (fs : List (Field × Word))
  /-- `PUSH n <- w`. -/
  | push (n : EpNum) (w : Word)
  /-- `POP n -> w`. -/
  | pop (n : EpNum) (w : Word)
  /-- `RXPOP -> w`. -/
  | rxpop (w : Word)
  /-- `DESC (t,i) -> found L`, or notfound. -/
  | desc (t i : Byte) (found : Option Nat)
  /-- `TXABORT r`. -/
  | txabort (r : TxAbort)
  /-- `FATAL c`. -/
  | fatal (c : Cause)
  /-- `INIT vbus=v`. -/
  | init (vbus : Bool)
  /-- `IRQ_ENTER`. -/
  | irqEnter
  /-- `IRQ_EXIT`. -/
  | irqExit
deriving DecidableEq, Repr

/-- The four busy-waits (R141, R142). -/
inductive SpinPoint where
  | txIdle
  | txDone
  | rxIdle
  | rxDone
deriving DecidableEq, Repr

/-- One place in the pseudocode at which the sequencer can stand or to which a call returns (R44). -/
inductive Frame where
  /-- In the loop of DISPATCH, about to look at the bits `start ..` of `snap` (R181). -/
  | scan (start : Nat)
  /-- In the loop of DISPATCH, after the handler of bit `j`: the acknowledgement of that bit (R181). -/
  | ackGint (j : Nat)
  /-- At the end of IRQ, after DISPATCH (R284). -/
  | irqExit
  /-- In RX_HANDLER, at the case over the kind of `rxw` (R201). -/
  | rxDecode
  /-- In OUT_EP_HANDLER, after `agg` was read (R250). -/
  | outDecode
  /-- In IN_EP_HANDLER, after `agg` was read (R255). -/
  | inDecode
  /-- In OUT_EP_HANDLER, at place `start` of the inspection of `evt` (R250). -/
  | outEvents (start : Nat)
  /-- In IN_EP_HANDLER, at place `start` of the inspection of `evt` (R255). -/
  | inEvents (start : Nat)
  /-- In EP0_SETUP, at the case over `ctx.setup.request` (R223). -/
  | setupDecode
  /-- In REQ_GET_DESCRIPTOR, at the selection of the sub-operation (R225). -/
  | descDecode (t i : Byte) (len : BitVec 16)
  /-- In OEP_STUP, after EP0_SETUP: the acknowledgement (R252). -/
  | ackStup
  /-- In a busy-wait, after `n` reads that did not give the wanted value (R140, R312). -/
  | spin (p : SpinPoint) (n : Nat)
  /-- In EV_USB_RESET, after FLUSH_TX: the call of FLUSH_RX (R163). -/
  | flushRx
  /-- In EV_USB_RESET, after FLUSH_RX (R163). -/
  | usbResetTail
deriving DecidableEq, Repr

/-- A call of the platform host (R286). -/
inductive HostCall where
  | reset
  | init (vbus : Bool)
  | irq
deriving DecidableEq, Repr

/-- The state (INVENTORY.md, State). -/
structure State where
  /-- `seq` (R29). -/
  seq : Mode
  /-- The position inside HANDLER, the innermost place first (R44). -/
  cont : List Frame
  /-- `halted` (R31). -/
  halted : Bool
  /-- `fatal_cause` (R31, R301); none is code 0. -/
  fatalCause : Option Cause
  /-- `tx_status` (R32). -/
  txStatus : TxStatus
  /-- `ctx.state` (R20, R21). -/
  devState : DeviceState
  /-- `ctx.addr` (R20). -/
  addr : BitVec 7
  /-- `ctx.setup` (R20, R23), as the number `S` of R112. -/
  setup : BitVec 64
  /-- `ctx.txbuf` (R20, R26), 64 bytes. -/
  txbuf : List Byte
  /-- `ctx.txlen` (R20, R26). -/
  txlen : BitVec 7
  /-- `ctx.speed` (R20, R27). -/
  speed : BitVec 2
  /-- `cfg.vbus_sense` (R20, R28). -/
  vbusSense : Bool
  /-- `rxw` (R40). -/
  rxw : Word
  /-- `snap` (R41). -/
  snap : Word
  /-- `idx` (R41), 0 to 32. -/
  idx : Fin 33
  /-- `agg` (R42). -/
  agg : Word
  /-- `epn` (R42). -/
  epn : EpNum
  /-- `evt` (R42). -/
  evt : Word
  /-- The write-TX word counter (R44). -/
  txk : BitVec 5
  /-- The OPEN parameters (R7); no operation writes them (log 3). -/
  par : Params
  /-- The platform host's pending calls, oldest first (R120, R286; log 10). -/
  calls : List HostCall
  /-- The reset input: asserted after so many more records; none: not asserted (R340; log 13). -/
  resetIn : Option Nat
  /-- The environment's answers to the next reads, the next one first (R60, R120; log 2). -/
  answers : List Word
  /-- The counter of free values, the model's own (log 2, log 5). -/
  freeCtr : Nat
  /-- The records made so far, oldest first (R12). -/
  trace : List Record
deriving DecidableEq, Repr

/-- Why a step faults. No operation of the block faults: a contract violation is the entry to HALTED, a next state (R304). -/
inductive Fault where
  /-- Raised by `step` alone, in HALTED with no call of the platform host pending and no reset input: "the block performs
  no step" (R31). Safe: the hardware stays halted; a reset is an input that the state then holds (log 9). -/
  | halted (c : Option Cause)
deriving DecidableEq, Repr

/-- Why a step is refused. -/
inductive Refusal where
  /-- Raised by an arm of `exec` whose operation has no meaning yet. Safe. -/
  | notModelled (mnemonic : String)
  /-- Raised by `step` alone: the configuration breaks R8, R65, R66 or R222 ("a model refuses a configuration that breaks
  one"). Safe (log 15). -/
  | badConfiguration
  /-- Raised by WRITE_TX with a length above 64 or more than the data ("no rule of this spec makes such a call and a model
  refuses it", R143). Safe (log 15). -/
  | writeTxOperands
deriving DecidableEq, Repr

/-- The three outcomes of a step of this machine. -/
abbrev Out := Host.Outcome State Fault Refusal

/-- The machine right after reset (R45, R340), with the default parameters (R7), no input given and nothing recorded. The
fields the spec leaves unspecified are 0 here (DESIGN CHOICE, log 4); no statement rests on it. -/
def State.reset : State where
  seq := .preInit
  cont := []
  halted := false
  fatalCause := none
  txStatus := .ok
  devState := .uninitialized
  addr := 0
  setup := 0
  txbuf := List.replicate 64 0
  txlen := 0
  speed := 0
  vbusSense := false
  rxw := 0
  snap := 0
  idx := 0
  agg := 0
  epn := 0
  evt := 0
  txk := 0
  par := Params.default
  calls := []
  resetIn := none
  answers := []
  freeCtr := 0
  trace := []

end Sys2Proof.Machine
end

