-- ==== Sys2Proof/Machine/Flags.lean ====
section
/-! DEFINITION. The numeric codes of the sequencer mode (R29, R311), the enumeration state (R21), the transmit status (R32)
and the fatal cause (R31, R301), and the status outputs (R287). There is no other flag (R33). -/

namespace Sys2Proof.Machine

/-- The code of `seq` (R29, R311), 2 bits. -/
def Mode.code : Mode → BitVec 2
  | .preInit => 0
  | .idle => 1
  | .handler => 2
  | .halted => 3

/-- The code of `ctx.state` (R21), 3 bits. -/
def DeviceState.code : DeviceState → BitVec 3
  | .uninitialized => 0
  | .powered => 1
  | .resettingBus => 2
  | .defaultAddress => 3
  | .addressed => 4
  | .suspended => 5

/-- The launch state of a 3-bit code: 6 and 7 are refused (R21). -/
def DeviceState.ofCode : BitVec 3 → Option DeviceState
  | 0 => some .uninitialized
  | 1 => some .powered
  | 2 => some .resettingBus
  | 3 => some .defaultAddress
  | 4 => some .addressed
  | 5 => some .suspended
  | _ => none

/-- The code of `tx_status` (R32), 2 bits. -/
def TxStatus.code : TxStatus → BitVec 2
  | .ok => 0
  | .abortInactive => 1
  | .abortNoSpace => 2

/-- The status that an abort leaves (R306: `tx_status <- k`). -/
def TxStatus.ofAbort : TxAbort → TxStatus
  | .inactive => .abortInactive
  | .noSpace => .abortNoSpace

/-- The code of a cause (R301), 4 bits. -/
def causeCode : Cause → BitVec 4
  | .modeMismatch => 1
  | .setupEp => 2
  | .setupLen => 3
  | .stupEp => 4
  | .setAddressState => 5
  | .spinTimeout => 6

/-- The code of `fatal_cause` (R31, R301), 4 bits; 0 means no fatal has happened. -/
def fatalCauseCode : Option Cause → BitVec 4
  | none => 0
  | some c => causeCode c

/-- The status outputs of R287. -/
structure StatusOutputs where
  halted : Bool
  fatalCause : BitVec 4
  txStatus : BitVec 2
  devState : BitVec 3
  devAddr : BitVec 7
deriving DecidableEq, Repr

/-- What the status outputs show (R287). -/
def State.statusOutputs (s : State) : StatusOutputs where
  halted := s.halted
  fatalCause := fatalCauseCode s.fatalCause
  txStatus := s.txStatus.code
  devState := s.devState.code
  devAddr := s.addr

end Sys2Proof.Machine
end

