-- ==== Sys2Proof/Machine/Ops.lean ====
section
/-! DEFINITION. The primitives of 00_scope.md R10, the only ways the meanings touch the environment: reads (answered by the
environment, R60), writes, FIFO ports, the descriptor lookup; taking an exception (R304), reporting an abort (R306), and the
only way out of HALTED, the reset (R305, R340). Every primitive that reaches the environment appends one record (R12). -/

namespace Sys2Proof.Machine

/-- One record at the end of the trace (R12). -/
def State.record (s : State) (r : Record) : State := { s with trace := s.trace ++ [r] }

/-- The sequencer stands at the places `fs`, innermost first, before it returns to where it was (R30, R44). -/
def State.goTo (s : State) (fs : List Frame) : State := { s with cont := fs ++ s.cont }

/-- The value of the next answer: the environment's next listed answer, or a free value (R60; log 2). -/
def State.answerValue (s : State) : Word :=
  match s.answers with
  | w :: _ => w
  | [] => Config.freeAnswer s.freeCtr

/-- The state after the next answer has been taken. -/
def State.answerTaken (s : State) : State :=
  match s.answers with
  | _ :: rest => { s with answers := rest }
  | [] => { s with freeCtr := s.freeCtr + 1 }

/-- The value a read of field `f` gives: of the word that the environment answers only the bits of `f` are kept (R10, R67;
log 14), so it is any value of the field's width (R60); `n` is the endpoint number of the register read. -/
def State.fieldValue (s : State) (f : Field) (n : EpNum := 0#4) : Word := s.par.fieldOf f s.answerValue n

/-- `FieldRead(R.F)` (R67): the state after it; the value is `fieldValue`. -/
def State.fieldRead (s : State) (r : Reg) (f : Field) : State := s.answerTaken.record (.rd r f (s.fieldValue f r.n))

/-- `MemRead(R, 4)` (R10): the state after it; the value is `answerValue`. -/
def State.memRead (s : State) (r : Reg) : State := s.answerTaken.record (.rdWord r s.answerValue)

/-- `RxStatusPop()` (R70): the state after it; the value is `answerValue`. -/
def State.rxStatusPop (s : State) : State := s.answerTaken.record (.rxpop s.answerValue)

/-- `FifoPop(n)` (R70): the state after it; the value is `answerValue`. -/
def State.fifoPop (s : State) (n : EpNum) : State := s.answerTaken.record (.pop n s.answerValue)

/-- `MemWrite(R, 4, v)` (R10, R68, R69). -/
def State.memWrite (s : State) (r : Reg) (v : Word) : State := s.record (.wr r v)

/-- Each value cut to the width of its field in the register of endpoint number `n` (R66). -/
def truncFields (p : Params) (fs : List (Field × Word)) (n : EpNum := 0#4) : List (Field × Word) :=
  fs.map (fun x => (x.1, truncTo (p.width x.1 n) x.2))

/-- `FieldsWrite(R, fs)` (R66): one record with the truncated values. -/
def State.fieldsWrite (s : State) (r : Reg) (fs : List (Field × Word)) : State :=
  s.record (.wrFields r (truncFields s.par fs r.n))

/-- `FifoPush(n, w)` (R70). -/
def State.fifoPush (s : State) (n : EpNum) (w : Word) : State := s.record (.push n w)

/-- `DescLookup(t, i)` (R82): the state after it; what it finds is `Params.descLookup`. -/
def State.descLookup (s : State) (t i : Byte) : State := s.record (.desc t i ((s.par.descLookup t i).map List.length))

/-- The value of an entry in a parameter list of writes (R282). -/
def State.parVal (s : State) : ParVal → Word
  | .lit v => v
  | .vbusSense => if s.vbusSense then 1 else 0
  | .trdt => s.par.trdt
  | .byFlag clear set => if s.vbusSense then set else clear

/-- One write of a parameter list. -/
def State.cfgWrite (s : State) : CfgWrite → State
  | .word r v => s.memWrite r (s.parVal v)
  | .fields r fs => s.fieldsWrite r (fs.map (fun x => (x.1, s.parVal x.2)))

/-- `perform <list> in order` (R163, R166, R281). -/
def State.performWrites (s : State) (ws : List CfgWrite) : State := ws.foldl State.cfgWrite s

/-- `ACK(R, i)` for the bit of a field (R68, R121): a one-hot whole-word write. -/
def State.ackField (s : State) (r : Reg) (f : Field) : State := s.memWrite r (s.par.ackWord f r.n)

/-- The acknowledgement of bit `j` of the global status word (R181, R186). -/
def State.ackGint (s : State) (j : Nat) : State := s.memWrite (.glob .intSts) (oneHot j)

/-- `raise Fatal(c)` (R304): the exception. Nothing is saved; the position is gone, so nothing of the operation, its
callers, the handler and the pass runs after it. -/
def State.raiseFatal (s : State) (c : Cause) : State :=
  { s.record (.fatal c) with halted := true, fatalCause := some c, seq := .halted, cont := [] }

/-- `report TxAbort(k)` (R306): the status is written and recorded, and execution goes on. -/
def State.reportTxAbort (s : State) (k : TxAbort) : State :=
  { s.record (.txabort k) with txStatus := TxStatus.ofAbort k }

/-- RESET (R340), the only way out of HALTED (R305). It makes no access and no record; what R340 leaves unspecified is drawn
free (log 5); the parameters, the inputs still pending and the trace so far are not the block's and stay (log 27). -/
def State.resetBlock (s : State) : State :=
  { s with
    seq := .preInit
    cont := []
    halted := false
    fatalCause := none
    txStatus := .ok
    devState := .uninitialized
    addr := 0
    txlen := 0
    vbusSense := false
    setup := Config.resetSetup s.freeCtr
    txbuf := (Config.resetTxbuf s.freeCtr).toList
    speed := Config.resetSpeed s.freeCtr
    rxw := Config.resetRxw s.freeCtr
    snap := Config.resetSnap s.freeCtr
    idx := Config.resetIdx s.freeCtr
    agg := Config.resetAgg s.freeCtr
    epn := Config.resetEpn s.freeCtr
    evt := Config.resetEvt s.freeCtr
    txk := Config.resetTxk s.freeCtr
    freeCtr := s.freeCtr + 1 }

end Sys2Proof.Machine
end

