-- ==== Sys2Proof/Machine/Fifo.lean ====
section
/-! DEFINITION. The FIFO primitives (40_fifo_primitives.md): FLUSH_TX, FLUSH_RX, WRITE_TX, REARM_OUT, ZLP. A called rule runs
in place (R10). -/

namespace Sys2Proof.Machine

/-! ## The busy-wait (R140) -/

/-- The field a busy-wait reads, all of them fields of `G.RST_CTL` (R141, R142). -/
def SpinPoint.field : SpinPoint → Field
  | .txIdle => .ahbIdle
  | .txDone => .txfFlush
  | .rxIdle => .ahbIdle
  | .rxDone => .rxfFlush

/-- The value it waits for (R141, R142). -/
def SpinPoint.want : SpinPoint → Word
  | .txIdle => 1
  | .txDone => 0
  | .rxIdle => 1
  | .rxDone => 0

/-- Whether the read just made is the `SPIN_LIMIT`-th unsuccessful one, after `n` earlier ones (R140; log 18). -/
def spinLimitReached (p : Params) (n : Nat) : Bool :=
  match p.spinLimit with
  | some limit => decide (limit ≤ n + 1)
  | none => false

/-- `G.RST_CTL`. -/
def rstCtl : Reg := .glob .rstCtl

/-- One repetition of a busy-wait after `n` unsuccessful reads (R140): one read; on the wanted value `next` follows; at the
limit CV_SPIN_TIMEOUT; otherwise the sequencer stays in the busy-wait, with the places `rest` after it. -/
def spinOnce (p : SpinPoint) (n : Nat) (next : State → State) (rest : List Frame) (s : State) : State :=
  let t := s.fieldRead rstCtl p.field
  if s.fieldValue p.field = p.want then next t
  else if spinLimitReached s.par n then t.raiseFatal .spinTimeout
  else t.goTo (.spin p (n + 1) :: rest)

/-! ## FLUSH_TX and FLUSH_RX (R141, R142) -/

/-- The request of FLUSH_TX and its second busy-wait (R141). -/
def flushTxRequest (next : State → State) (rest : List Frame) (s : State) : State :=
  spinOnce .txDone 0 next rest (s.fieldsWrite rstCtl [(.txfNum, s.par.flushTxfnum), (.txfFlush, 1)])

/-- FLUSH_TX (R141) with what its caller does after it: `next`, and `rest` as the places where that stands. -/
def flushTx (next : State → State) (rest : List Frame) (s : State) : State :=
  spinOnce .txIdle 0 (flushTxRequest next rest) rest s

/-- The request of FLUSH_RX and its second busy-wait (R142). -/
def flushRxRequest (next : State → State) (rest : List Frame) (s : State) : State :=
  spinOnce .rxDone 0 next rest (s.fieldsWrite rstCtl [(.rxfFlush, 1)])

/-- FLUSH_RX (R142) with what its caller does after it. -/
def flushRx (next : State → State) (rest : List Frame) (s : State) : State :=
  spinOnce .rxIdle 0 (flushRxRequest next rest) rest s

/-- The repetition of a busy-wait in which the sequencer stands (R140). -/
def resumeSpin (p : SpinPoint) (n : Nat) (s : State) : State :=
  match p with
  | .txIdle => spinOnce .txIdle n (flushTxRequest id []) [] s
  | .txDone => spinOnce .txDone n id [] s
  | .rxIdle => spinOnce .rxIdle n (flushRxRequest id []) [] s
  | .rxDone => spinOnce .rxDone n id [] s

/-- FLUSH_TX (R141). -/
def execFlushTx (s : State) : Out := .next (flushTx id [] s)

/-- FLUSH_RX (R142). -/
def execFlushRx (s : State) : Out := .next (flushRx id [] s)

/-! ## REARM_OUT (R144) -/

/-- `IN[n].CTL`, `IN[n].TSIZ`, ... by name. -/
def inReg (r : RegName) (n : EpNum) : Reg := ⟨r, n⟩

/-- `OUT[n].CTL`, `OUT[n].TSIZ`, ... by name. -/
def outReg (r : RegName) (n : EpNum) : Reg := ⟨r, n⟩

/-- REARM_OUT(n) (R144). -/
def rearmOut (n : EpNum) (s : State) : State := s.fieldsWrite (outReg .outCtl n) [(.outCnak, 1), (.outEpena, 1)]

/-- REARM_OUT (R144). -/
def execRearmOut (n : EpNum) (s : State) : Out := .next (rearmOut n s)

/-! ## WRITE_TX (R143) -/

/-- The pushes of WRITE_TX: words `0 .. nwords-1`, ascending (R143). -/
def pushWords (data : List Byte) (length nwords : Nat) (s : State) : State :=
  (List.range nwords).foldl (fun t k => t.fifoPush 0 (packWord data length k)) s

/-- The part of WRITE_TX after both checks have passed (R143). -/
def writeTxSend (data : List Byte) (length : Nat) (s : State) : State :=
  let s1 := s.fieldsWrite (inReg .inTsiz 0) [(.inPktcnt, 1), (.inXfrsiz, BitVec.ofNat 32 length)]
  let s2 := s1.fieldsWrite (inReg .inCtl 0) [(.inStall, 0)]
  let s3 := s2.fieldsWrite (inReg .inCtl 0) [(.inCnak, 1), (.inEpena, 1)]
  let s4 := pushWords data length (ceil4 length) s3
  let s5 := rearmOut 0 s4
  { s5 with txStatus := .ok, txk := BitVec.ofNat 5 (ceil4 length) }

/-- WRITE_TX(data, length) (R143): the active check, then the space check, then the writes. -/
def writeTx (data : List Byte) (length : Nat) (s : State) : State :=
  let s1 := s.fieldRead (inReg .inCtl 0) .inActive
  if s.fieldValue .inActive = 0 then s1.reportTxAbort .inactive
  else
    let s2 := s1.fieldRead (inReg .inFifoSts 0) .spaceAvail
    if (s1.fieldValue .spaceAvail).toNat < ceil4 length then s2.reportTxAbort .noSpace
    else writeTxSend data length s2

/-- WRITE_TX (R143); a call with more than 64 bytes, or with less data than its length, is refused (R143, U11). -/
def execWriteTx (data : List Byte) (len : BitVec 16) (s : State) : Out :=
  if len.toNat ≤ txbufCap ∧ len.toNat ≤ data.length then .next (writeTx data len.toNat s)
  else .refused .writeTxOperands

/-- ZLP (R145): `call WRITE_TX(-, 0)`. -/
def zlp (s : State) : State := writeTx [] 0 s

/-- ZLP (R145). -/
def execZlp (s : State) : Out := .next (zlp s)

end Sys2Proof.Machine
end

