-- ==== Sys2Proof/Machine/Endpoints.lean ====
section
/-! DEFINITION. The Endpoint Event Handlers (45_endpoint_events.md). The endpoint number comes only from the aggregate word,
and any of the 16 is served (R260). The hidden registers `agg`, `epn` and `evt` keep their values after the handler has
ended, where R42 gives only their life: DESIGN CHOICE (log 30). -/

namespace Sys2Proof.Machine

/-! ## OUT endpoints -/

/-- EV_OUT_EP (R250): the read of the aggregate word; then its OUT half (`Frame.outDecode`). -/
def execEvOutEp (s : State) : Out :=
  .next ({ s.memRead (.glob .epInt) with agg := s.answerValue }.goTo [.outDecode])

/-- EPAGG_OUT (R108, R250): nothing on an empty half; otherwise the lowest pending endpoint's event word is read, once
(`epn` and `evt` after the handler: log 30). -/
def epaggOut (pending : BitVec 16) (s : State) : State :=
  match ctz16 pending with
  | none => s
  | some n => { s.memRead (outReg .outInt n) with epn := n, evt := s.answerValue }.goTo [.outEvents 0]

/-- EPAGG_OUT (R250). -/
def execEpaggOut (pending : BitVec 16) (s : State) : Out := .next (epaggOut pending s)

/-- The acknowledgement of an OUT event bit (R251 to R254, R259). -/
def ackOut (n : EpNum) (f : Field) (s : State) : State := s.ackField (outReg .outInt n) f

/-- OEP_XFRC (R251): acknowledge only. -/
def execOepXfrc (n : EpNum) (s : State) : Out := .next (ackOut n .outXfrc s)

/-- OEP_EPDISD (R253): acknowledge only. -/
def execOepEpdisd (n : EpNum) (s : State) : Out := .next (ackOut n .outEpdisd s)

/-- OEP_OTEPDIS (R254): acknowledge only. -/
def execOepOtepdis (n : EpNum) (s : State) : Out := .next (ackOut n .outOtepdis s)

/-- OEP_NAK (R259): acknowledge only. -/
def execOepNak (n : EpNum) (s : State) : Out := .next (ackOut n .outNak s)

/-- OEP_STUP (R252): only on endpoint 0; EP0_SETUP, then the acknowledgement (`Frame.ackStup`). -/
def oepStup (n : EpNum) (s : State) : State :=
  if n ≠ 0 then s.raiseFatal .stupEp else s.goTo [.setupDecode, .ackStup]

/-- OEP_STUP (R252). -/
def execOepStup (n : EpNum) (s : State) : Out := .next (oepStup n s)

/-! ## IN endpoints -/

/-- EV_IN_EP (R255): the read of the aggregate word; then its IN half (`Frame.inDecode`). -/
def execEvInEp (s : State) : Out :=
  .next ({ s.memRead (.glob .epInt) with agg := s.answerValue }.goTo [.inDecode])

/-- EPAGG_IN (R108, R255), the same on the IN half (`epn` and `evt` after the handler: log 30). -/
def epaggIn (pending : BitVec 16) (s : State) : State :=
  match ctz16 pending with
  | none => s
  | some n => { s.memRead (inReg .inInt n) with epn := n, evt := s.answerValue }.goTo [.inEvents 0]

/-- EPAGG_IN (R255). -/
def execEpaggIn (pending : BitVec 16) (s : State) : Out := .next (epaggIn pending s)

/-- The acknowledgement of an IN event bit (R256 to R258). -/
def ackIn (n : EpNum) (f : Field) (s : State) : State := s.ackField (inReg .inInt n) f

/-- IEP_XFRC (R256): the OUT endpoint of the same number is re-armed, then the acknowledgement. -/
def execIepXfrc (n : EpNum) (s : State) : Out := .next (ackIn n .inXfrc (rearmOut n s))

/-- IEP_EPDISD (R257): acknowledge only. -/
def execIepEpdisd (n : EpNum) (s : State) : Out := .next (ackIn n .inEpdisd s)

/-- IEP_NAK (R258): acknowledge only. -/
def execIepNak (n : EpNum) (s : State) : Out := .next (ackIn n .inNak s)

end Sys2Proof.Machine
end

