-- ==== Sys2Proof/Machine/Dispatcher.lean ====
section
/-! DEFINITION. The Event Dispatcher (42_event_dispatcher.md): DISPATCH, EV_MODE_MISMATCH and ACK_ONLY.b<i>. The loop over
the bits is `Frame.scan`, served by Machine/Sequencer.lean. -/

namespace Sys2Proof.Machine

/-- The read of the status word, once, and the loop's first place (R181). `snap` keeps the word after the pass, where R41 gives
only its life: DESIGN CHOICE (log 30). -/
def dispatch (s : State) : State := { s.memRead (.glob .intSts) with snap := s.answerValue }.goTo [.scan 0]

/-- DISPATCH (R181). -/
def execDispatch (s : State) : Out := .next (dispatch s)

/-- EV_MODE_MISMATCH (R183): always fatal. -/
def execEvModeMismatch (s : State) : Out := .next (s.raiseFatal .modeMismatch)

/-! ## ACK_ONLY.b<i> (R184): the empty handler; the dispatcher's own write is all that happens -/

/-- ACK_ONLY.b0 (R184). -/
def execAckOnlyB0 (s : State) : Out := .next (s.ackGint 0)

/-- ACK_ONLY.b2 (R184). -/
def execAckOnlyB2 (s : State) : Out := .next (s.ackGint 2)

/-- ACK_ONLY.b3 (R184). -/
def execAckOnlyB3 (s : State) : Out := .next (s.ackGint 3)

/-- ACK_ONLY.b5 (R184). -/
def execAckOnlyB5 (s : State) : Out := .next (s.ackGint 5)

/-- ACK_ONLY.b6 (R184). -/
def execAckOnlyB6 (s : State) : Out := .next (s.ackGint 6)

/-- ACK_ONLY.b7 (R184). -/
def execAckOnlyB7 (s : State) : Out := .next (s.ackGint 7)

/-- ACK_ONLY.b8 (R184). -/
def execAckOnlyB8 (s : State) : Out := .next (s.ackGint 8)

/-- ACK_ONLY.b9 (R184). -/
def execAckOnlyB9 (s : State) : Out := .next (s.ackGint 9)

/-- ACK_ONLY.b10 (R184). -/
def execAckOnlyB10 (s : State) : Out := .next (s.ackGint 10)

/-- ACK_ONLY.b11 (R184). -/
def execAckOnlyB11 (s : State) : Out := .next (s.ackGint 11)

/-- ACK_ONLY.b14 (R184). -/
def execAckOnlyB14 (s : State) : Out := .next (s.ackGint 14)

/-- ACK_ONLY.b15 (R184). -/
def execAckOnlyB15 (s : State) : Out := .next (s.ackGint 15)

/-- ACK_ONLY.b16 (R184). -/
def execAckOnlyB16 (s : State) : Out := .next (s.ackGint 16)

/-- ACK_ONLY.b17 (R184). -/
def execAckOnlyB17 (s : State) : Out := .next (s.ackGint 17)

/-- ACK_ONLY.b20 (R184). -/
def execAckOnlyB20 (s : State) : Out := .next (s.ackGint 20)

/-- ACK_ONLY.b21 (R184). -/
def execAckOnlyB21 (s : State) : Out := .next (s.ackGint 21)

/-- ACK_ONLY.b22 (R184). -/
def execAckOnlyB22 (s : State) : Out := .next (s.ackGint 22)

/-- ACK_ONLY.b23 (R184). -/
def execAckOnlyB23 (s : State) : Out := .next (s.ackGint 23)

/-- ACK_ONLY.b24 (R184). -/
def execAckOnlyB24 (s : State) : Out := .next (s.ackGint 24)

/-- ACK_ONLY.b25 (R184). -/
def execAckOnlyB25 (s : State) : Out := .next (s.ackGint 25)

/-- ACK_ONLY.b26 (R184). -/
def execAckOnlyB26 (s : State) : Out := .next (s.ackGint 26)

/-- ACK_ONLY.b27 (R184). -/
def execAckOnlyB27 (s : State) : Out := .next (s.ackGint 27)

/-- ACK_ONLY.b28 (R184). -/
def execAckOnlyB28 (s : State) : Out := .next (s.ackGint 28)

/-- ACK_ONLY.b29 (R184). -/
def execAckOnlyB29 (s : State) : Out := .next (s.ackGint 29)

/-- ACK_ONLY.b31 (R184). -/
def execAckOnlyB31 (s : State) : Out := .next (s.ackGint 31)

end Sys2Proof.Machine
end

