-- ==== Sys2Proof/Machine/Entry.lean ====
section
/-! DEFINITION. The entry points (46_entry_points.md) and RESET (70_reset_and_hazards.md R340). -/

namespace Sys2Proof.Machine

/-- RESET (R340): accepted in every mode. -/
def execReset (s : State) : Out := .next s.resetBlock

/-- The body of INIT (R281). -/
def initBody (vbus : Bool) (s : State) : State :=
  let s1 := s.record (.init vbus)
  let s2 := { s1 with vbusSense := vbus, devState := .uninitialized, addr := 0, txlen := 0 }
  let s3 := s2.performWrites s2.par.initWrites
  { s3 with seq := .idle }

/-- INIT (R281): ignored, without a record, outside PRE_INIT (R283). -/
def execInit (vbus : Bool) (s : State) : Out := .next (if s.seq = .preInit then initBody vbus s else s)

/-- The body of IRQ up to and with the call of DISPATCH (R284); the rest is `Frame.irqExit`. -/
def irqBody (s : State) : State := dispatch ({ s.record .irqEnter with seq := .handler }.goTo [.irqExit])

/-- IRQ (R284): ignored, without a record, outside IDLE (R283, R285). -/
def execIrq (s : State) : Out := .next (if s.seq = .idle then irqBody s else s)

/-- The end of IRQ (R284). -/
def irqExit (s : State) : State := { s.record .irqExit with seq := .idle }

end Sys2Proof.Machine
end

