-- ==== Sys2Proof/Machine/Enumeration.lean ====
section
/-! DEFINITION. The Device State Machine (41_device_state_machine.md): EV_SESSION, EV_USB_RESET, EV_ENUM_DONE and
ARM_SETUP_OUT0. A trigger outside its required source state is a no-op (R160, R168). -/

namespace Sys2Proof.Machine

/-- EV_SESSION (R161): the flag is read in every state, then the state is tested. -/
def evSession (s : State) : State :=
  let s1 := s.fieldRead (.glob .otgCtl) .bSessionValid
  if s.fieldValue .bSessionValid = 0 then s1
  else if s1.devState ≠ .uninitialized then s1
  else { s1.fieldsWrite (.glob .devCtl) [(.softDisconnect, 0)] with devState := .powered }

/-- EV_SESSION (R161). -/
def execEvSession (s : State) : Out := .next (evSession s)

/-- ARM_SETUP_OUT0 (R165). -/
def armSetupOut0 (s : State) : State :=
  rearmOut 0 (s.fieldsWrite (outReg .outTsiz 0) [(.outStupcnt, 1), (.outPktcnt, 1), (.outXfrsiz, 8)])

/-- ARM_SETUP_OUT0 (R165). -/
def execArmSetupOut0 (s : State) : Out := .next (armSetupOut0 s)

/-- EV_USB_RESET after both flushes (R163): the device address, OUT endpoint 0, and the state last. -/
def usbResetTail (s : State) : State :=
  { armSetupOut0 { s.fieldsWrite (.glob .devCfg) [(.devAddr, 0)] with addr := 0 } with devState := .resettingBus }

/-- EV_USB_RESET (R163): only in `Powered`; the TX flush before the RX flush. -/
def evUsbReset (s : State) : State :=
  if s.devState ≠ .powered then s
  else
    flushTx (flushRx usbResetTail [.usbResetTail]) [.flushRx, .usbResetTail]
      (s.performWrites s.par.resetMaskWrites)

/-- EV_USB_RESET (R163). -/
def execEvUsbReset (s : State) : Out := .next (evUsbReset s)

/-- EV_ENUM_DONE (R166): only in `ResettingBus`. -/
def evEnumDone (s : State) : State :=
  if s.devState ≠ .resettingBus then s
  else
    let s1 := { s.fieldRead (.glob .devSts) .enumSpeed with speed := (s.fieldValue .enumSpeed).setWidth 2 }
    let s2 := s1.fieldsWrite (inReg .inCtl 0) [(.inMpsiz, 0)]
    let s3 := s2.fieldsWrite (.glob .devCtl) [(.clearGlobalInNak, 1)]
    let s4 := s3.fieldsWrite (.glob .usbCfg) [(.turnaround, s3.par.trdt)]
    let s5 := s4.performWrites s4.par.enumUnmaskWrites
    { s5 with devState := .defaultAddress }

/-- EV_ENUM_DONE (R166). -/
def execEvEnumDone (s : State) : Out := .next (evEnumDone s)

end Sys2Proof.Machine
end

