-- ==== Sys2Proof/Machine/Ep0.lean ====
section
/-! DEFINITION. The Endpoint-0 Control Protocol (44_ep0_control.md): EP0_SETUP, the implemented requests, the recognised and
unimplemented ones, UNSUPPORTED and STALL_EP0. -/

namespace Sys2Proof.Machine

/-- EP0_SETUP (R223): the case over the request byte (`Frame.setupDecode`). -/
def execEp0Setup (s : State) : Out := .next (s.goTo [.setupDecode])

/-! ## What is not answered -/

/-- STALL_EP0 (R229). -/
def stallEp0 (s : State) : State :=
  (s.fieldsWrite (inReg .inCtl 0) [(.inStall, 1)]).fieldsWrite (outReg .outCtl 0) [(.outStall, 1)]

/-- STALL_EP0 (R229). -/
def execStallEp0 (s : State) : Out := .next (stallEp0 s)

/-- UNSUPPORTED (R244): nothing, or the STALL under `STALL_ON_UNSUPPORTED`. -/
def unsupported (s : State) : State := if s.par.stallOnUnsupported then stallEp0 s else s

/-- UNSUPPORTED (R244). -/
def execUnsupported (s : State) : Out := .next (unsupported s)

/-- REQ_GET_STATUS (R234). -/
def execReqGetStatus (s : State) : Out := .next (unsupported s)

/-- REQ_CLEAR_FEATURE (R235). -/
def execReqClearFeature (s : State) : Out := .next (unsupported s)

/-- REQ_SET_FEATURE (R236). -/
def execReqSetFeature (s : State) : Out := .next (unsupported s)

/-- REQ_SET_DESCRIPTOR (R237). -/
def execReqSetDescriptor (s : State) : Out := .next (unsupported s)

/-- REQ_GET_CONFIGURATION (R238). -/
def execReqGetConfiguration (s : State) : Out := .next (unsupported s)

/-- REQ_SET_CONFIGURATION (R239). -/
def execReqSetConfiguration (s : State) : Out := .next (unsupported s)

/-- REQ_GET_INTERFACE (R240). -/
def execReqGetInterface (s : State) : Out := .next (unsupported s)

/-- REQ_SET_INTERFACE (R241). -/
def execReqSetInterface (s : State) : Out := .next (unsupported s)

/-- REQ_SYNCH_FRAME (R242). -/
def execReqSynchFrame (s : State) : Out := .next (unsupported s)

/-- REQ_UNKNOWN (R243). -/
def execReqUnknown (s : State) : Out := .next (unsupported s)

/-! ## SET_ADDRESS (R224) -/

/-- REQ_SET_ADDRESS (R224): the state precondition, the address register, then the zero-length status packet. -/
def reqSetAddress (a : BitVec 7) (s : State) : State :=
  if s.devState ≠ .defaultAddress ∧ s.devState ≠ .addressed then s.raiseFatal .setAddressState
  else zlp { s.fieldsWrite (.glob .devCfg) [(.devAddr, a.setWidth 32)] with addr := a }

/-- REQ_SET_ADDRESS (R224). -/
def execReqSetAddress (a : BitVec 7) (s : State) : Out := .next (reqSetAddress a s)

/-! ## GET_DESCRIPTOR (R225 to R233) -/

/-- REQ_GET_DESCRIPTOR (R225): the tag selects the sub-operation (`Frame.descDecode`; log 16). -/
def execReqGetDescriptor (t i : Byte) (len : BitVec 16) (s : State) : Out := .next (s.goTo [.descDecode t i len])

/-- The answer of GET_DESCRIPTOR with `n > 0` bytes of `bytes`: staged in the transmit buffer, then sent (R225). -/
def sendDescriptor (bytes : List Byte) (n : Nat) (s : State) : State :=
  let s1 := { s with txbuf := stageBytes s.txbuf bytes n, txlen := BitVec.ofNat 7 n }
  writeTx s1.txbuf n s1

/-- R225 for a tag that is looked up: truncation to `min(L, length)`; not found or nothing to send: UNSUPPORTED. -/
def getDescriptor (t i : Byte) (len : BitVec 16) (s : State) : State :=
  let s1 := s.descLookup t i
  match s.par.descLookup t i with
  | some bytes =>
    if 0 < min bytes.length len.toNat then sendDescriptor bytes (min bytes.length len.toNat) s1
    else unsupported s1
  | none => unsupported s1

/-- GET_DESCRIPTOR.DEVICE (R226). -/
def execGetDescriptorDevice (i : Byte) (len : BitVec 16) (s : State) : Out :=
  .next (getDescriptor s.par.dtDevice i len s)

/-- GET_DESCRIPTOR.CONFIGURATION (R227). -/
def execGetDescriptorConfiguration (i : Byte) (len : BitVec 16) (s : State) : Out :=
  .next (getDescriptor s.par.dtConfiguration i len s)

/-- GET_DESCRIPTOR.STRING (R228): no lookup at all. -/
def execGetDescriptorString (s : State) : Out := .next (unsupported s)

/-- GET_DESCRIPTOR.INTERFACE (R230). -/
def execGetDescriptorInterface (s : State) : Out := .next (unsupported s)

/-- GET_DESCRIPTOR.ENDPOINT (R231). -/
def execGetDescriptorEndpoint (s : State) : Out := .next (unsupported s)

/-- GET_DESCRIPTOR.QUALIFIER (R232). -/
def execGetDescriptorQualifier (s : State) : Out := .next (unsupported s)

/-- GET_DESCRIPTOR.OTHER (R233). -/
def execGetDescriptorOther (s : State) : Out := .next (unsupported s)

end Sys2Proof.Machine
end

