-- ==== Sys2Proof/Machine/Exceptions.lean ====
section
/-! DEFINITION. The two exception actions as operations of the table: FATAL (R304) and TXABORT (R306). -/

namespace Sys2Proof.Machine

/-- FATAL (R304). -/
def execFatal (c : Cause) (s : State) : Out := .next (s.raiseFatal c)

/-- TXABORT (R306). -/
def execTxabort (k : TxAbort) (s : State) : Out := .next (s.reportTxAbort k)

end Sys2Proof.Machine
end

