-- ==== Sys2Proof/Machine/RxClassifier.lean ====
section
/-! DEFINITION. The RX Classifier (43_rx_classifier.md): EV_RX_STATUS pops one status word, and the six classifications. -/

namespace Sys2Proof.Machine

/-- EV_RX_STATUS (R201): exactly one pop, always; then the case over the kind (`Frame.rxDecode`). `rxw` keeps
the word after the handler has ended, where R40 gives only its life: DESIGN CHOICE (log 30). -/
def execEvRxStatus (s : State) : Out := .next ({ s.rxStatusPop with rxw := s.answerValue }.goTo [.rxDecode])

/-- A classification that does nothing after the pop (R204 to R208). -/
def rxNothing (s : State) : State := s

/-- RX_NAK (R204). -/
def execRxNak (s : State) : Out := .next (rxNothing s)

/-- RX_DATA_UPDATE (R205): the announced data is not popped. -/
def execRxDataUpdate (s : State) : Out := .next (rxNothing s)

/-- RX_XFER_COMPLETE (R206). -/
def execRxXferComplete (s : State) : Out := .next (rxNothing s)

/-- RX_SETUP_COMPLETE (R208). -/
def execRxSetupComplete (s : State) : Out := .next (rxNothing s)

/-- RX_RESERVED (R207). -/
def execRxReserved (s : State) : Out := .next (rxNothing s)

/-- The copy of the setup payload (R203): word 0, then word 1. -/
def copySetup (ep : EpNum) (s : State) : State :=
  let s1 := { s.fifoPop ep with setup := setSetupWord0 s.setup s.answerValue }
  { s1.fifoPop ep with setup := setSetupWord1 s1.setup s1.answerValue }

/-- RX_SETUP_UPDATE (R202, R203): the endpoint is tested before the length, so the payload is popped from `FIFO[0]`. -/
def rxSetupUpdate (ep bc : Word) (s : State) : State :=
  if ep ≠ 0 then s.raiseFatal .setupEp
  else if bc ≠ 8 then s.raiseFatal .setupLen
  else copySetup 0 s

/-- RX_SETUP_UPDATE (R203). -/
def execRxSetupUpdate (ep bc : Word) (s : State) : Out := .next (rxSetupUpdate ep bc s)

end Sys2Proof.Machine
end

