-- ==== Sys2Proof/Machine/Dispatch.lean ====
section
/-! DEFINITION. One arm per constructor of `Instr`: the meaning of each operation. -/

namespace Sys2Proof.Machine

def exec (i : Instr) (s : State) : Host.Outcome State Fault Refusal :=
  match i with
  | .reset => Sys2Proof.Machine.execReset s
  | .init vbus => Sys2Proof.Machine.execInit vbus s
  | .irq => Sys2Proof.Machine.execIrq s
  | .dispatch => Sys2Proof.Machine.execDispatch s
  | .ackOnlyB0 => Sys2Proof.Machine.execAckOnlyB0 s
  | .ackOnlyB2 => Sys2Proof.Machine.execAckOnlyB2 s
  | .ackOnlyB3 => Sys2Proof.Machine.execAckOnlyB3 s
  | .ackOnlyB5 => Sys2Proof.Machine.execAckOnlyB5 s
  | .ackOnlyB6 => Sys2Proof.Machine.execAckOnlyB6 s
  | .ackOnlyB7 => Sys2Proof.Machine.execAckOnlyB7 s
  | .ackOnlyB8 => Sys2Proof.Machine.execAckOnlyB8 s
  | .ackOnlyB9 => Sys2Proof.Machine.execAckOnlyB9 s
  | .ackOnlyB10 => Sys2Proof.Machine.execAckOnlyB10 s
  | .ackOnlyB11 => Sys2Proof.Machine.execAckOnlyB11 s
  | .ackOnlyB14 => Sys2Proof.Machine.execAckOnlyB14 s
  | .ackOnlyB15 => Sys2Proof.Machine.execAckOnlyB15 s
  | .ackOnlyB16 => Sys2Proof.Machine.execAckOnlyB16 s
  | .ackOnlyB17 => Sys2Proof.Machine.execAckOnlyB17 s
  | .ackOnlyB20 => Sys2Proof.Machine.execAckOnlyB20 s
  | .ackOnlyB21 => Sys2Proof.Machine.execAckOnlyB21 s
  | .ackOnlyB22 => Sys2Proof.Machine.execAckOnlyB22 s
  | .ackOnlyB23 => Sys2Proof.Machine.execAckOnlyB23 s
  | .ackOnlyB24 => Sys2Proof.Machine.execAckOnlyB24 s
  | .ackOnlyB25 => Sys2Proof.Machine.execAckOnlyB25 s
  | .ackOnlyB26 => Sys2Proof.Machine.execAckOnlyB26 s
  | .ackOnlyB27 => Sys2Proof.Machine.execAckOnlyB27 s
  | .ackOnlyB28 => Sys2Proof.Machine.execAckOnlyB28 s
  | .ackOnlyB29 => Sys2Proof.Machine.execAckOnlyB29 s
  | .ackOnlyB31 => Sys2Proof.Machine.execAckOnlyB31 s
  | .evModeMismatch => Sys2Proof.Machine.execEvModeMismatch s
  | .evRxStatus => Sys2Proof.Machine.execEvRxStatus s
  | .evUsbReset => Sys2Proof.Machine.execEvUsbReset s
  | .evEnumDone => Sys2Proof.Machine.execEvEnumDone s
  | .evInEp => Sys2Proof.Machine.execEvInEp s
  | .evOutEp => Sys2Proof.Machine.execEvOutEp s
  | .evSession => Sys2Proof.Machine.execEvSession s
  | .rxNak _ _ _ => Sys2Proof.Machine.execRxNak s
  | .rxDataUpdate _ _ _ => Sys2Proof.Machine.execRxDataUpdate s
  | .rxXferComplete _ _ _ => Sys2Proof.Machine.execRxXferComplete s
  | .rxSetupComplete _ _ _ => Sys2Proof.Machine.execRxSetupComplete s
  | .rxSetupUpdate ep bc _ => Sys2Proof.Machine.execRxSetupUpdate ep bc s
  | .rxReserved _ _ _ _ => Sys2Proof.Machine.execRxReserved s
  | .epaggOut pending => Sys2Proof.Machine.execEpaggOut pending s
  | .epaggIn pending => Sys2Proof.Machine.execEpaggIn pending s
  | .oepXfrc n => Sys2Proof.Machine.execOepXfrc n s
  | .oepEpdisd n => Sys2Proof.Machine.execOepEpdisd n s
  | .oepStup n => Sys2Proof.Machine.execOepStup n s
  | .oepOtepdis n => Sys2Proof.Machine.execOepOtepdis n s
  | .oepNak n => Sys2Proof.Machine.execOepNak n s
  | .iepXfrc n => Sys2Proof.Machine.execIepXfrc n s
  | .iepEpdisd n => Sys2Proof.Machine.execIepEpdisd n s
  | .iepNak n => Sys2Proof.Machine.execIepNak n s
  | .reqGetStatus => Sys2Proof.Machine.execReqGetStatus s
  | .reqClearFeature => Sys2Proof.Machine.execReqClearFeature s
  | .reqSetFeature => Sys2Proof.Machine.execReqSetFeature s
  | .reqSetAddress a => Sys2Proof.Machine.execReqSetAddress a s
  | .reqGetDescriptor t ix len => Sys2Proof.Machine.execReqGetDescriptor t ix len s
  | .reqSetDescriptor => Sys2Proof.Machine.execReqSetDescriptor s
  | .reqGetConfiguration => Sys2Proof.Machine.execReqGetConfiguration s
  | .reqSetConfiguration => Sys2Proof.Machine.execReqSetConfiguration s
  | .reqGetInterface => Sys2Proof.Machine.execReqGetInterface s
  | .reqSetInterface => Sys2Proof.Machine.execReqSetInterface s
  | .reqSynchFrame => Sys2Proof.Machine.execReqSynchFrame s
  | .reqUnknown _ => Sys2Proof.Machine.execReqUnknown s
  | .getDescriptorDevice ix len => Sys2Proof.Machine.execGetDescriptorDevice ix len s
  | .getDescriptorConfiguration ix len => Sys2Proof.Machine.execGetDescriptorConfiguration ix len s
  | .getDescriptorString => Sys2Proof.Machine.execGetDescriptorString s
  | .getDescriptorInterface => Sys2Proof.Machine.execGetDescriptorInterface s
  | .getDescriptorEndpoint => Sys2Proof.Machine.execGetDescriptorEndpoint s
  | .getDescriptorQualifier => Sys2Proof.Machine.execGetDescriptorQualifier s
  | .getDescriptorOther _ => Sys2Proof.Machine.execGetDescriptorOther s
  | .flushTx => Sys2Proof.Machine.execFlushTx s
  | .flushRx => Sys2Proof.Machine.execFlushRx s
  | .writeTx data len => Sys2Proof.Machine.execWriteTx data len s
  | .rearmOut n => Sys2Proof.Machine.execRearmOut n s
  | .zlp => Sys2Proof.Machine.execZlp s
  | .armSetupOut0 => Sys2Proof.Machine.execArmSetupOut0 s
  | .ep0Setup => Sys2Proof.Machine.execEp0Setup s
  | .unsupported => Sys2Proof.Machine.execUnsupported s
  | .stallEp0 => Sys2Proof.Machine.execStallEp0 s
  | .fatal c => Sys2Proof.Machine.execFatal c s
  | .txabort k => Sys2Proof.Machine.execTxabort k s

end Sys2Proof.Machine
end

