-- ==== Sys2Proof/Machine/Sequencer.lean ====
section
/-! DEFINITION. The sequencer (R29, R30, R44): what stands next, where a word is decoded and its operation executed, the
inputs of the platform host (R283 to R286), and the reset that cuts an operation off (R340). Machine/Step.lean calls it. -/

namespace Sys2Proof.Machine

/-! ## The word at the place where the sequencer stands -/

/-- The word that a place decodes; none for the places that are not decoders. -/
def Frame.word (s : State) : Frame → Option FetchWord
  | .scan start => some (.gint start s.snap)
  | .rxDecode => some (.rxsts s.rxw)
  | .outDecode => some (.epaggOut s.agg)
  | .inDecode => some (.epaggIn s.agg)
  | .outEvents start => some (.outEvt s.epn start s.evt)
  | .inEvents start => some (.inEvt s.epn start s.evt)
  | .setupDecode => some (.setup8 s.setup)
  | .descDecode t i len => some (.desc t i len)
  | .ackGint _ => none
  | .irqExit => none
  | .ackStup => none
  | .spin _ _ => none
  | .flushRx => none
  | .usbResetTail => none

/-- The word that the sequencer decodes next: that of its innermost place. -/
def State.fetch (s : State) : Option FetchWord :=
  match s.cont with
  | f :: _ => f.word s
  | [] => none

/-- The bit of the snapshot being served, as a value of `idx` (R41). -/
def idxOf (j : Nat) : Fin 33 := Fin.ofNat 33 j

/-- Where DISPATCH stands while bit `j` is served: a handled bit is acknowledged after its handler, a bit without handler
by its own operation (R181, R184); then the loop goes on above it. -/
def scanPlaces (p : Params) (j : Nat) : List Frame :=
  if (p.handlerAt j).isSome then [.ackGint j, .scan (j + 1)] else [.scan (j + 1)]

/-- The state in which the operation decoded from `fw` is executed: `idx` at the bit being served, and the place to which
the operation returns. -/
def State.enter (s : State) : FetchWord → State
  | .gint start w =>
    match nextSet w start with
    | some j => { s with idx := idxOf j }.goTo (scanPlaces s.par j)
    | none => s
  | .outEvt n start w =>
    match s.par.nextEvent n outEventFields w start with
    | some k => s.goTo [.outEvents (k + 1)]
    | none => s
  | .inEvt n start w =>
    match s.par.nextEvent n inEventFields w start with
    | some k => s.goTo [.inEvents (k + 1)]
    | none => s
  | .rxsts _ => s
  | .epaggOut _ => s
  | .epaggIn _ => s
  | .setup8 _ => s
  | .desc _ _ _ => s

/-- What a place does that decoded no operation. The loop of the dispatcher ends with `idx` at 32 (R41, R181); the other
loops end. A set bit with neither handler nor row is acknowledged by the dispatcher's own write (R104, R181; log 20). -/
def State.afterReject (s : State) : FetchWord → Reject → State
  | .gint _ _, .nothingLeft => { s with idx := idxOf 32 }
  | _, .nothingLeft => s
  | _, .unassignedBit j => ({ s with idx := idxOf j }.goTo [.scan (j + 1)]).ackGint j

/-- Decode the word of the place just left, and execute its operation. -/
def State.decodeExec (s : State) (fw : FetchWord) : Out :=
  match decode s.par fw with
  | .ok i => exec i (s.enter fw)
  | .error e => .next (s.afterReject fw e)

/-- What the sequencer does at a place; `s` is the state with that place taken off. -/
def resume (f : Frame) (s : State) : Out :=
  match f.word s with
  | some fw => s.decodeExec fw
  | none =>
    match f with
    | .ackGint j => .next (s.ackGint j)
    | .irqExit => .next (irqExit s)
    | .ackStup => .next (ackOut 0 .outStup s)
    | .spin p n => .next (resumeSpin p n s)
    | .flushRx => exec .flushRx s
    | .usbResetTail => .next (usbResetTail s)
    | _ => .next s

/-! ## What the block does next -/

/-- With no call of the platform host that is served at once: the place where the sequencer stands; where it stands nowhere,
a pending `irq`; otherwise the block waits, and in HALTED it performs no step (R31, R285; log 9, log 17). -/
def State.proceed (s : State) : Out :=
  match s.cont with
  | f :: rest => resume f { s with cont := rest }
  | [] =>
    match s.calls with
    | .irq :: cs => exec .irq { s with calls := cs }
    | _ => if s.seq = .halted then .fault (.halted s.fatalCause) else .next s

/-- RESET is accepted in every mode (R340), INIT is taken or ignored at once (R283); `irq` waits until no pass is running
(R285). -/
def State.advance (s : State) : Out :=
  match s.calls with
  | .reset :: cs => exec .reset { s with calls := cs }
  | .init v :: cs => exec (.init v) { s with calls := cs }
  | _ => s.proceed

/-! ## The reset input in the middle of an operation (R340) -/

/-- Whether a record took an answer of the environment. -/
def Record.isAnswer : Record → Bool
  | .rdWord _ _ => true
  | .rd _ _ _ => true
  | .pop _ _ => true
  | .rxpop _ => true
  | _ => false

/-- The records that the step from `s` to `t` made. -/
def newRecords (s t : State) : List Record := t.trace.drop s.trace.length

/-- The step from `s` to `t`, cut off by the reset input after `k` of its records: those records stay, the remaining
accesses are not made, and the block is reset (R340). -/
def cutByReset (k : Nat) (s t : State) : State :=
  let kept := (newRecords s t).take k
  { t with
    trace := s.trace ++ kept
    answers := s.answers.drop (kept.countP Record.isAnswer)
    resetIn := none }.resetBlock

/-- One step when the reset input is asserted after `k` more records (log 13). -/
def State.advanceToReset (s : State) (k : Nat) : Out :=
  match s.advance with
  | .next t =>
    if k ≤ (newRecords s t).length then .next (cutByReset k s t)
    else .next { t with resetIn := some (k - (newRecords s t).length) }
  | .fault _ => .next { s with resetIn := none }.resetBlock
  | .refused r => .refused r

/-- One step of the block under a configuration the model accepts. -/
def State.sequence (s : State) : Out :=
  match s.resetIn with
  | none => s.advance
  | some k => s.advanceToReset k

/-! ## A table word at the place where it is decoded -/

/-- The state in which the sequencer stands at the place that decodes `fw`, in the middle of a pass, and no host call comes
before it (log 11). -/
def State.standAt (s : State) (fw : FetchWord) : State :=
  let t := { s with seq := .handler, calls := [], resetIn := none }
  match fw with
  | .gint start w => { t with snap := w, cont := [.scan start] }
  | .rxsts w => { t with rxw := w, cont := [.rxDecode] }
  | .epaggOut w => { t with agg := w, cont := [.outDecode] }
  | .epaggIn w => { t with agg := w, cont := [.inDecode] }
  | .outEvt n start w => { t with epn := n, evt := w, cont := [.outEvents start] }
  | .inEvt n start w => { t with epn := n, evt := w, cont := [.inEvents start] }
  | .setup8 S => { t with setup := S, cont := [.setupDecode] }
  | .desc ty i len => { t with cont := [.descDecode ty i len] }

/-- A table word where the next step decodes it; a word that no format has leaves the state as it is (log 12). -/
def placeTableWord (s : State) (nbits w : Nat) : State :=
  match tableFetch nbits w with
  | some fw => s.standAt fw
  | none => s

end Sys2Proof.Machine
end

