-- ==== Sys2Proof/Machine/Step.lean ====
section
/-! DEFINITION. One step: the model refuses a configuration that breaks R8, R65, R66 or R222; otherwise the sequencer runs. -/

namespace Sys2Proof.Machine

/-- One step of the machine. -/
def step (s : State) : Host.Outcome State Fault Refusal :=
  if s.par.wf then s.sequence else .refused .badConfiguration

/-- The step relation with the parameters as its argument (R80: "a model keeps both as parameters of the step relation, not as
state"): the field `par` of `s` is not read, and `step` is this at the parameters that the state carries (log 3). -/
def stepUnder (p : Params) (s : State) : Host.Outcome State Fault Refusal := step { s with par := p }

/-- `s` with a table word stored where `step` decodes its next word (log 11, log 12). -/
def State.withFetchWord (s : State) (nbits w : Nat) : State := placeTableWord s nbits w

end Sys2Proof.Machine
end

