-- ==== Sys2Proof/Machine/Bus.lean ====
section
/-! DEFINITION. The word level of the register bus: addresses (R71, R75 to R78), and the refinement of a record into word
accesses (R66, R67) with the obligations of R352. The machine itself works at field level, which is the normative level
(R66); nothing in `step` uses this file (log 23). -/

namespace Sys2Proof.Machine

/-- The address of a register under the binding (R75, R77: address = `PERIPH_BASE` + offset, the offset with the stride for each
endpoint number). That an address is 32 bits wide, and that a sum which passes 2^32 wraps, is the model's: DESIGN CHOICE
(log 28). -/
def regAddr (p : Params) (r : Reg) : Word :=
  match p.regRow r with
  | some row => p.base + BitVec.ofNat 32 (row.offset + row.stride * r.n.toNat)
  | none => p.base

/-- The bits a field covers in the register of endpoint number `n`. -/
def fieldMask (p : Params) (n : EpNum) (f : Field) : Word := truncTo (p.width f n) (BitVec.allOnes 32) <<< p.lo f n

/-- One field of `w` replaced by `v` cut to the field's width (R66: `(t AND NOT mask) OR bits`). -/
def mergeField (p : Params) (n : EpNum) (w : Word) (x : Field × Word) : Word :=
  (w &&& ~~~ fieldMask p n x.1) ||| (truncTo (p.width x.1 n) x.2 <<< p.lo x.1 n)

/-- The listed fields of `old` replaced, the others kept (R66). Of a field that is listed twice the last value stays: DESIGN
CHOICE (log 31). -/
def mergeFields (p : Params) (n : EpNum) (old : Word) (fs : List (Field × Word)) : Word := fs.foldl (mergeField p n) old

/-- The word read, with 0 in every `command` and `w1c` field of the register (R352: "must write 0 to every `command` and
`w1c` field it does not name"); in a register whose every bit is one (R35: "w1c, per bit"), 0 in the whole word. -/
def clearActions (p : Params) (r : Reg) (old : Word) : Word :=
  if r.name.wordKind.any FieldKind.actsOnOne then 0
  else ((p.fieldsOf r).filter (fun f => f.kind.actsOnOne)).foldl (fun w f => w &&& ~~~ fieldMask p r.n f) old

/-- One access on the register bus (R65: one aligned 32-bit word). -/
inductive BusAccess where
  | rd (addr : Word) (v : Word)
  | wr (addr : Word) (v : Word)
deriving DecidableEq, Repr

/-- The word accesses of a record (R66, R67), where `old` gives the bits of the word read that the record does not name: a
field read is one read of a word whose bits `hi:lo` of the field are the value (R10), and a field write reads `old` whole. -/
def busAccesses (p : Params) (old : Word) : Record → List BusAccess
  | .rdWord r v => [.rd (regAddr p r) v]
  | .rd r f v => [.rd (regAddr p r) (mergeField p r.n old (f, v))]
  | .wr r v => [.wr (regAddr p r) v]
  | .wrFields r fs => [.rd (regAddr p r) old, .wr (regAddr p r) (mergeFields p r.n (clearActions p r old) fs)]
  | .push n w => [.wr (regAddr p ⟨.fifo, n⟩) w]
  | .pop n w => [.rd (regAddr p ⟨.fifo, n⟩) w]
  | .rxpop w => [.rd (regAddr p (.glob .rxStsPop)) w]
  | .desc _ _ _ => []
  | .txabort _ => []
  | .fatal _ => []
  | .init _ => []
  | .irqEnter => []
  | .irqExit => []

end Sys2Proof.Machine
end

