-- ==== Sys2Proof/Safety.lean ====
section
/-! DEFINITION. What claims about the machine are stated in: the places where the sequencer can stand (R10, R30, R44), the
invariant of the state, the advance of the enumeration state (R22, R169), a safe state, and the lists of records that the
rules write out for a parameter list and for a successful WRITE_TX. Nothing in the machine uses this file. -/

namespace Sys2Proof.Machine

/-! ## Where the sequencer can stand -/

/-- Whether place `f` can stand directly above place `g`: `g` is where the rule that holds `f` returns to (R181, R201, R250,
R255, R252, R225, R163). -/
def Frame.above : Frame → Frame → Bool
  | .scan start, .irqExit => decide (start ≤ 32)
  | .ackGint j, .scan start => decide (start = j + 1) && decide (j < 32)
  | .rxDecode, .ackGint _ => true
  | .outDecode, .ackGint _ => true
  | .inDecode, .ackGint _ => true
  | .outEvents _, .ackGint _ => true
  | .inEvents _, .ackGint _ => true
  | .ackStup, .outEvents _ => true
  | .setupDecode, .ackStup => true
  | .descDecode _ _ _, .ackStup => true
  | .usbResetTail, .ackGint _ => true
  | .flushRx, .usbResetTail => true
  | .spin .txIdle _, .flushRx => true
  | .spin .txDone _, .flushRx => true
  | .spin .rxIdle _, .usbResetTail => true
  | .spin .rxDone _, .usbResetTail => true
  | _, _ => false

/-- A position inside HANDLER: every place above one that it returns to, the end of IRQ at the bottom (R44, R284). -/
def standsInPass : List Frame → Bool
  | [] => false
  | [f] => f == .irqExit
  | f :: g :: rest => f.above g && standsInPass (g :: rest)

/-! ## The invariant -/

/-- What holds of every state the block can be in. -/
structure State.Inv (s : State) : Prop where
  /-- The transmit buffer has 64 bytes (R26). -/
  txbufLength : s.txbuf.length = txbufCap
  /-- `ctx.txlen` is 0 to 64 (R20). -/
  txlenBound : s.txlen.toNat ≤ txbufCap
  /-- `halted = 1` exactly in HALTED (R31, R304). -/
  haltedMode : s.halted = true ↔ s.seq = .halted
  /-- A cause is named exactly when the block has halted (R31, R301). -/
  causeNamed : s.fatalCause.isSome = s.halted
  /-- The sequencer has a position inside HANDLER and nowhere else (R29, R30). -/
  position : if s.seq = .handler then standsInPass s.cont = true else s.cont = []
  /-- The tail of EV_USB_RESET stands only while the state is still `Powered` (R163: "`ctx.state` is written last"). -/
  resetWaits : .usbResetTail ∈ s.cont → s.devState = .powered
  /-- Before the initialiser the context is at its reset values (R45). -/
  beforeInit : s.seq = .preInit → s.devState = .uninitialized ∧ s.addr = 0

/-- A safe state: a legal one in which no contract violation has happened (R300 (a), R304). -/
def State.Safe (s : State) : Prop := s.Inv ∧ s.halted = false

/-! ## The enumeration state -/

/-- One step along `Uninitialized → Powered → ResettingBus → DefaultAddress`, or none (R22, R169). -/
def DeviceState.advances : DeviceState → DeviceState → Bool
  | .uninitialized, .powered => true
  | .powered, .resettingBus => true
  | .resettingBus, .defaultAddress => true
  | a, b => a == b

/-! ## The reset state and the busy-wait, as the rules describe them -/

/-- The registers at the values that R45 and R340 give for reset; of the fields that they leave unspecified only that the
buffer has its 64 bytes (R26). -/
def State.AtReset (t : State) : Prop :=
  t.seq = .preInit ∧ t.cont = [] ∧ t.halted = false ∧ t.fatalCause = none ∧ t.txStatus = .ok ∧
  t.devState = .uninitialized ∧ t.addr = 0 ∧ t.txlen = 0 ∧ t.vbusSense = false ∧ t.txbuf.length = txbufCap

/-- What follows the first read of the busy-wait `p`, where it does not give the wanted value and `rest` is what its caller
does after it (R140): with `SPIN_LIMIT` 1 that read is the last one and the block halts; otherwise the sequencer stands in the
busy-wait, one unsuccessful read counted. A limit of 0 is no case of it (log 18). -/
def State.waits (t : State) (p : SpinPoint) (rest : List Frame) : State :=
  if t.par.spinLimit = some 1 then
    { t with
      halted := true
      fatalCause := some .spinTimeout
      seq := .halted
      cont := []
      trace := t.trace ++ [.fatal .spinTimeout] }
  else { t with cont := .spin p 1 :: (rest ++ t.cont) }

/-! ## Records that the rules list -/

/-- The value of an entry of a parameter list under the flag `vbus` (R282). -/
def parValue (p : Params) (vbus : Bool) : ParVal → Word
  | .lit v => v
  | .vbusSense => if vbus then 1 else 0
  | .trdt => p.trdt
  | .byFlag clear set => if vbus then set else clear

/-- The record of one entry of a parameter list (R164, R167, R282). -/
def cfgRecord (p : Params) (vbus : Bool) : CfgWrite → Record
  | .word r v => .wr r (parValue p vbus v)
  | .fields r fs => .wrFields r (fs.map (fun x => (x.1, truncTo (p.width x.1 r.n) (parValue p vbus x.2))))

/-- Whether an entry of a parameter list writes the register `r`. -/
def cfgWritesReg (r : Reg) : CfgWrite → Bool
  | .word q _ => q == r
  | .fields q _ => q == r

/-- The pushes of a packet of `length` bytes, in order (R63, R143). -/
def pushRecords (data : List Byte) (length : Nat) : List Record :=
  (List.range (ceil4 length)).map (fun k => .push 0 (packWord data length k))

/-- The records of WRITE_TX after both checks have passed (R143): the size, STALL, the enable, the pushes, the re-arming. -/
def sendRecords (data : List Byte) (length : Nat) : List Record :=
  [.wrFields ⟨.inTsiz, 0⟩ [(.inPktcnt, 1), (.inXfrsiz, BitVec.ofNat 32 length)],
   .wrFields ⟨.inCtl, 0⟩ [(.inStall, 0)],
   .wrFields ⟨.inCtl, 0⟩ [(.inCnak, 1), (.inEpena, 1)]]
  ++ pushRecords data length ++
  [.wrFields ⟨.outCtl, 0⟩ [(.outCnak, 1), (.outEpena, 1)]]

/-- The two writes of STALL_EP0 (R229). -/
def stallRecords : List Record :=
  [.wrFields ⟨.inCtl, 0⟩ [(.inStall, 1)], .wrFields ⟨.outCtl, 0⟩ [(.outStall, 1)]]

/-- What UNSUPPORTED records (R244). -/
def unsupportedRecords (p : Params) : List Record := if p.stallOnUnsupported then stallRecords else []

end Sys2Proof.Machine
end

