-- ==== Sys2Proof/Certificates/Slice0/Obligations.lean ====
section
/-! DEFINITION. The statements for the provers. In each equation `exec i s = .next { … }` every field of the state that is not
named keeps its value: the equation is the result, the frame and the completion of the operation at once. `s.answerValue`
and `s.fieldValue f` are the environment's answer to the next read (R60), `s.answerTaken` the state after it: of the state
that makes no other difference than to the answers still to come (`AnswersAreTakenInOrder`). The registers of the peripheral
are not state of the block (R43, R60), so what an operation does to them is what it records. A rule that the spec marks as its
own decision or inference is cited under the basis 'derived'. Where the sequencer stands between two steps is the model's
choice of granularity (log 1), so every statement about `step` rests on it. -/

open Sys2Proof Sys2Proof.Machine

/-! ## Encodings -/

/-- Decode and encode agree: the word of a well-formed operation, under every configuration the model accepts and at every
value of its operands, decodes to that operation (R100, R103, R106, R108 to R110, R112, R113, R115, R116, R122). -/
def Obligations.DecodeOfEncode : Prop :=
  ∀ (p : Params) (i : Instr) (fw : FetchWord),
    p.wf = true → i.wf p = true → encode p i = some fw → decode p fw = .ok i

/-- What a decoder gives is well formed, on every word and under every configuration, so no assigned kind, request or tag is
read as a reserved one, no position with a handler as an ACK_ONLY row, and every operand is a value of its field. Under a
configuration the model accepts an assigned operation comes from exactly the words whose kind, request or tag field holds its
code, with the operands those of the word, whatever the bits hold that are not decoded (R107 bits 31:21, R114); every other
word gives the reserved operation (R107, R115, R116). An aggregate word gives its half (R108). -/
def Obligations.DecodedIsWellFormed : Prop :=
  (∀ (p : Params) (fw : FetchWord) (i : Instr), decode p fw = .ok i → i.wf p = true) ∧
  ∀ p : Params, p.wf = true →
    (∀ (w ep bc dt : Word) (x : Word × (Word → Word → Word → Instr)),
      x ∈ [(p.rxkNak, Instr.rxNak), (p.rxkDataUpdate, .rxDataUpdate), (p.rxkXferComplete, .rxXferComplete),
        (p.rxkSetupComplete, .rxSetupComplete), (p.rxkSetupUpdate, .rxSetupUpdate)] →
      (decode p (.rxsts w) = .ok (x.2 ep bc dt) ↔
        p.fieldOf .rxStatusKind w = x.1 ∧ p.fieldOf .rxEndpoint w = ep ∧ p.fieldOf .rxByteCount w = bc ∧
          p.fieldOf .rxDataToggle w = dt)) ∧
    (∀ w kind ep bc dt : Word,
      decode p (.rxsts w) = .ok (.rxReserved kind ep bc dt) ↔
        kind ∉ p.rxkCodes ∧ p.fieldOf .rxStatusKind w = kind ∧ p.fieldOf .rxEndpoint w = ep ∧
          p.fieldOf .rxByteCount w = bc ∧ p.fieldOf .rxDataToggle w = dt) ∧
    (∀ (S : BitVec 64) (x : Byte × Instr),
      x ∈ [(p.reqGetStatus, Instr.reqGetStatus), (p.reqClearFeature, .reqClearFeature), (p.reqSetFeature, .reqSetFeature),
        (p.reqSetAddress, .reqSetAddress ((setupValueLo S).setWidth 7)),
        (p.reqGetDescriptor, .reqGetDescriptor (setupValueHi S) (setupValueLo S) (setupLength S)),
        (p.reqSetDescriptor, .reqSetDescriptor), (p.reqGetConfiguration, .reqGetConfiguration),
        (p.reqSetConfiguration, .reqSetConfiguration), (p.reqGetInterface, .reqGetInterface),
        (p.reqSetInterface, .reqSetInterface), (p.reqSynchFrame, .reqSynchFrame)] →
      (decode p (.setup8 S) = .ok x.2 ↔ setupRequest S = x.1)) ∧
    (∀ (S : BitVec 64) (r : Byte),
      decode p (.setup8 S) = .ok (.reqUnknown r) ↔ r ∉ p.reqCodes ∧ setupRequest S = r) ∧
    (∀ (t i : Byte) (len : BitVec 16) (x : Byte × Instr),
      x ∈ [(p.dtDevice, Instr.getDescriptorDevice i len), (p.dtConfiguration, .getDescriptorConfiguration i len),
        (p.dtString, .getDescriptorString), (p.dtInterface, .getDescriptorInterface),
        (p.dtEndpoint, .getDescriptorEndpoint), (p.dtQualifier, .getDescriptorQualifier)] →
      (decode p (.desc t i len) = .ok x.2 ↔ t = x.1)) ∧
    (∀ (t u i : Byte) (len : BitVec 16),
      decode p (.desc t i len) = .ok (.getDescriptorOther u) ↔ u ∉ p.dtCodes ∧ t = u) ∧
    (∀ w : Word, decode p (.epaggOut w) = .ok (.epaggOut (p.extract .outPending 16 w)) ∧
      decode p (.epaggIn w) = .ok (.epaggIn (p.extract .inPending 16 w)))

/-- No word is illegal (R104, R107, R111, R117): a receive status word, an aggregate word, a setup packet and a descriptor
key always decode; the dispatcher's decoder (default binding) and the event decoders give nothing only where no set bit that
they look at is left. -/
def Obligations.NoIllegalWord : Prop :=
  ∀ p : Params,
    (∀ w, ∃ i, decode p (.rxsts w) = .ok i) ∧
    (∀ w, ∃ i, decode p (.epaggOut w) = .ok i) ∧
    (∀ w, ∃ i, decode p (.epaggIn w) = .ok i) ∧
    (∀ S, ∃ i, decode p (.setup8 S) = .ok i) ∧
    (∀ t i len, ∃ j, decode p (.desc t i len) = .ok j) ∧
    (∀ start w e, decode Params.default (.gint start w) = .error e →
      e = .nothingLeft ∧ ∀ j, start ≤ j → j < 32 → w.getLsbD j = false) ∧
    (∀ n start w e, decode p (.outEvt n start w) = .error e →
      ∀ k f, start ≤ k → outEventFields[k]? = some f → w.getLsbD (p.lo f n) = false) ∧
    (∀ n start w e, decode p (.inEvt n start w) = .error e →
      ∀ k f, start ≤ k → inEventFields[k]? = some f → w.getLsbD (p.lo f n) = false)

/-- Words written out from the spec decode, under the default binding, to the operation they stand for: a sanity check of one
word or two of every format (R102, R106, R109, R110, and the examples of R203, R224, R226). -/
def Obligations.DecodeSpecWords : Prop :=
  decode Params.default (.gint 0 0x00001002) = .ok .evModeMismatch ∧
  decode Params.default (.gint 2 0x00001002) = .ok .evUsbReset ∧
  decode Params.default (.gint 0 0x00000808) = .ok .ackOnlyB3 ∧
  decode Params.default (.gint 4 0x00000808) = .ok .ackOnlyB11 ∧
  decode Params.default (.gint 0 0x40000000) = .ok .evSession ∧
  decode Params.default (.rxsts 0x000C0080) = .ok (.rxSetupUpdate 0 8 0) ∧
  decode Params.default (.rxsts 0x00050000) = .ok (.rxDataUpdate 0 0 2) ∧
  decode Params.default (.rxsts 0x000A0000) = .ok (.rxReserved 5 0 0 0) ∧
  decode Params.default (.epaggOut 0x00010000) = .ok (.epaggOut 1) ∧
  decode Params.default (.epaggIn 0x00010004) = .ok (.epaggIn 4) ∧
  decode Params.default (.outEvt 2 0 0x00000008) = .ok (.oepStup 2) ∧
  decode Params.default (.inEvt 1 0 0x00002000) = .ok (.iepNak 1) ∧
  decode Params.default (.setup8 (setupOfBytes 0x00 0x05 0x85 0x00 0x00 0x00 0x00 0x00)) = .ok (.reqSetAddress 5) ∧
  decode Params.default (.setup8 (setupOfBytes 0x80 0x06 0x00 0x01 0x00 0x00 0x40 0x00)) =
    .ok (.reqGetDescriptor 1 0 64) ∧
  decode Params.default (.desc 1 0 64) = .ok (.getDescriptorDevice 0 64)

/-! ## Operands -/

/-- All views of the setup packet are views of the same eight bytes (R23, R24, R25, R64): what is written byte by byte is
read alike by byte, by field and by word, and a word write is seen by every view. Which byte stands where in a word, in the word
views and the word writes, is the spec's own decision D11 (R23; R64 is derived from it; log 6). -/
def Obligations.SetupViewsAlias : Prop :=
  ∀ b0 b1 b2 b3 b4 b5 b6 b7 : Byte,
    let S := setupOfBytes b0 b1 b2 b3 b4 b5 b6 b7
    (setupByte S 0 = b0 ∧ setupByte S 1 = b1 ∧ setupByte S 2 = b2 ∧ setupByte S 3 = b3 ∧
      setupByte S 4 = b4 ∧ setupByte S 5 = b5 ∧ setupByte S 6 = b6 ∧ setupByte S 7 = b7) ∧
    (setupRequestType S = b0 ∧ setupRequest S = b1 ∧ setupValue S = b3 ++ b2 ∧ setupIndex S = b5 ++ b4 ∧
      setupLength S = b7 ++ b6) ∧
    (setupValueLo S = b2 ∧ setupValueHi S = b3 ∧ setupIndexLo S = b4 ∧ setupIndexHi S = b5 ∧
      setupValue S = setupValueHi S ++ setupValueLo S ∧ setupIndex S = setupIndexHi S ++ setupIndexLo S) ∧
    (setupWord S 0 = b3 ++ b2 ++ b1 ++ b0 ∧ setupWord S 1 = b7 ++ b6 ++ b5 ++ b4) ∧
    (∀ T : BitVec 64, setSetupWord1 (setSetupWord0 T (b3 ++ b2 ++ b1 ++ b0)) (b7 ++ b6 ++ b5 ++ b4) = S ∧
      setupWord (setSetupWord0 T (b3 ++ b2 ++ b1 ++ b0)) 1 = setupWord T 1 ∧
      setupWord (setSetupWord1 T (b7 ++ b6 ++ b5 ++ b4)) 0 = setupWord T 0)

/-- Transmit packing (R63): byte lane `j` of word `k` is byte `4k+j` of the data below the length and 0 from there on; the
number of words is the least whose bytes hold the length (R9, R119 (a)). Which lane a byte stands in is the spec's own decision
D11 (log 6). -/
def Obligations.PackWordLanes : Prop :=
  (∀ (data : List Byte) (length k j : Nat), j < 4 →
    (packWord data length k).extractLsb' (8 * j) 8 = if 4 * k + j < length then data.getD (4 * k + j) 0 else 0) ∧
  (∀ n : Nat, n ≤ 4 * ceil4 n ∧ 4 * ceil4 n < n + 4)

/-- A grouped field write at word level (R66, R352), at every register and endpoint number: each listed field has the value cut
to its width, every other bit is as read; and the refinement of the record into accesses is one read and one write of the merged
word, with 0 in every `command` and `w1c` field that is not listed. In a register whose every bit is a `w1c` bit (R35) every bit
that is not listed is 0; in any other register every other field, and the bits outside every field that the binding gives the
register, are as read (R37). -/
def Obligations.FieldsWriteMerges : Prop :=
  ∀ (p : Params) (r : Reg) (fs : List (Field × Word)) (old : Word), p.wf = true →
    (∀ x ∈ fs, x.1 ∈ p.fieldsOf r) → (fs.map Prod.fst).Nodup →
    (∀ x ∈ fs, p.fieldOf x.1 (mergeFields p r.n old fs) r.n = truncTo (p.width x.1 r.n) x.2) ∧
    (∀ i, (∀ x ∈ fs, i < p.lo x.1 r.n ∨ p.lo x.1 r.n + p.width x.1 r.n ≤ i) →
      (mergeFields p r.n old fs).getLsbD i = old.getLsbD i) ∧
    ∃ w, busAccesses p old (.wrFields r fs) = [.rd (regAddr p r) old, .wr (regAddr p r) w] ∧
      (∀ x ∈ fs, p.fieldOf x.1 w r.n = truncTo (p.width x.1 r.n) x.2) ∧
      (∀ f ∈ p.fieldsOf r, (∀ x ∈ fs, x.1 ≠ f) → (f.kind = .command ∨ f.kind = .w1c) → p.fieldOf f w r.n = 0) ∧
      (r.name ∈ [RegName.intSts, .inInt, .outInt] →
        ∀ i, (∀ x ∈ fs, i < p.lo x.1 r.n ∨ p.lo x.1 r.n + p.width x.1 r.n ≤ i) → w.getLsbD i = false) ∧
      (r.name ∉ [RegName.intSts, .inInt, .outInt] →
        (∀ f ∈ p.fieldsOf r, (∀ x ∈ fs, x.1 ≠ f) → f.kind ≠ .command → f.kind ≠ .w1c →
          p.fieldOf f w r.n = p.fieldOf f old r.n) ∧
        (∀ i, (∀ f ∈ p.fieldsOf r, i < p.lo f r.n ∨ p.lo f r.n + p.width f r.n ≤ i) → w.getLsbD i = old.getLsbD i))

/-- Every access on the register bus is one aligned 32-bit word (R65): under a configuration the model accepts, each word
access of a record is at an address divisible by 4. That a base not divisible by 4 is refused is log 15. -/
def Obligations.BusAccessesAligned : Prop :=
  ∀ (p : Params) (old : Word) (r : Record) (a v : Word), p.wf = true →
    (.rd a v ∈ busAccesses p old r ∨ .wr a v ∈ busAccesses p old r) → a.toNat % 4 = 0

/-- A read takes the environment's listed answers in order and changes nothing of the block but what is still to be answered
(R60, R73); of the word answered a field read keeps only the bits of its field (R10, R67), and the word access of its record is
the read of that word. Where no answer is listed the value is the free one, of which nothing is known. The list of answers is
the model's form of R60 (log 2, log 14). -/
def Obligations.AnswersAreTakenInOrder : Prop :=
  (∀ (s : State) (w : Word) (rest : List Word), s.answers = w :: rest →
    s.answerValue = w ∧ s.answerTaken = { s with answers := rest } ∧
    ∀ (f : Field) (n : EpNum),
      s.fieldValue f n = BitVec.ofNat 32 (w.toNat / 2 ^ s.par.lo f n % 2 ^ s.par.width f n)) ∧
  (∀ s : State, s.answers = [] → s.answerTaken = { s with freeCtr := s.freeCtr + 1 }) ∧
  (∀ (s : State) (f : Field) (n : EpNum), (s.fieldValue f n).toNat < 2 ^ s.par.width f n) ∧
  (∀ (s : State) (r : Reg) (f : Field),
    (s.fieldRead r f).trace = s.trace ++ [.rd r f (s.fieldValue f r.n)] ∧
    busAccesses s.par s.answerValue (.rd r f (s.fieldValue f r.n)) = [.rd (regAddr s.par r) s.answerValue])

/-! ## The step -/

/-- A step runs the decoded instruction: where the word at the sequencer's place decodes, the step is the operation executed
in the state entered for it, with the place taken off. -/
def Obligations.StepRunsDecoded : Prop :=
  ∀ (s : State) (f : Frame) (rest : List Frame) (fw : FetchWord) (i : Instr),
    s.par.wf = true → s.resetIn = none → (∀ c ∈ s.calls, c = .irq) → s.cont = f :: rest → s.fetch = some fw →
    decode s.par fw = .ok i → step s = exec i ({ s with cont := rest }.enter fw)

/-- What the sequencer keeps around an operation. In the dispatcher's loop the lowest set bit at or above the place is served,
`idx` holds it, a handled bit is acknowledged after its handler and the loop then goes on above it; a bit without handler
that has an ACK_ONLY row is served by that row (R181, R182, R184). In an endpoint's event word the bits are inspected in
order (R250, R255). At the other decoding places, those of a status word, of the two halves of an aggregate word, of a setup
packet and of a descriptor key, nothing is kept but the places to return to. -/
def Obligations.StepServesSetBits : Prop :=
  ∀ (s : State) (rest : List Frame), s.par.wf = true → s.resetIn = none → (∀ c ∈ s.calls, c = .irq) →
    (∀ start j, s.cont = .scan start :: rest → start ≤ j → j < 32 → s.snap.getLsbD j = true →
      (∀ k, start ≤ k → k < j → s.snap.getLsbD k = false) →
      (∀ f i, s.par.handlerAt j = some f → eventInstr f = some i →
        step s = exec i { s with idx := Fin.ofNat 33 j, cont := .ackGint j :: .scan (j + 1) :: rest }) ∧
      (∀ i, s.par.handlerAt j = none → ackOnlyAt j = some i →
        step s = exec i { s with idx := Fin.ofNat 33 j, cont := .scan (j + 1) :: rest })) ∧
    (∀ start k f i, s.cont = .outEvents start :: rest → start ≤ k → outEventFields[k]? = some f →
      s.evt.getLsbD (s.par.lo f s.epn) = true →
      (∀ m g, start ≤ m → m < k → outEventFields[m]? = some g → s.evt.getLsbD (s.par.lo g s.epn) = false) →
      [Instr.oepXfrc s.epn, .oepEpdisd s.epn, .oepStup s.epn, .oepOtepdis s.epn, .oepNak s.epn][k]? = some i →
      step s = exec i { s with cont := .outEvents (k + 1) :: rest }) ∧
    (∀ start k f i, s.cont = .inEvents start :: rest → start ≤ k → inEventFields[k]? = some f →
      s.evt.getLsbD (s.par.lo f s.epn) = true →
      (∀ m g, start ≤ m → m < k → inEventFields[m]? = some g → s.evt.getLsbD (s.par.lo g s.epn) = false) →
      [Instr.iepXfrc s.epn, .iepEpdisd s.epn, .iepNak s.epn][k]? = some i →
      step s = exec i { s with cont := .inEvents (k + 1) :: rest }) ∧
    (s.cont = .rxDecode :: rest → step s = exec (decodeRxsts s.par s.rxw) { s with cont := rest }) ∧
    (s.cont = .outDecode :: rest →
      step s = exec (.epaggOut (s.par.extract .outPending 16 s.agg)) { s with cont := rest }) ∧
    (s.cont = .inDecode :: rest →
      step s = exec (.epaggIn (s.par.extract .inPending 16 s.agg)) { s with cont := rest }) ∧
    (s.cont = .setupDecode :: rest → step s = exec (decodeSetup s.par s.setup) { s with cont := rest }) ∧
    (∀ t i len, s.cont = .descDecode t i len :: rest → step s = exec (decodeDesc s.par t i len) { s with cont := rest })

/-- The end of a loop, where no set bit is left: the dispatcher's loop ends without an access, and so does an endpoint
handler (R181, R250, R255, R111). That `idx` is 32 after the dispatcher's loop, and that the other hidden registers
keep their values, is the model's choice (log 22, log 30). -/
def Obligations.StepEndsLoops : Prop :=
  ∀ (s : State) (rest : List Frame) (start : Nat), s.par.wf = true → s.resetIn = none → (∀ c ∈ s.calls, c = .irq) →
    (s.cont = .scan start :: rest → (∀ j, start ≤ j → j < 32 → s.snap.getLsbD j = false) →
      step s = .next { s with cont := rest, idx := 32 }) ∧
    (s.cont = .outEvents start :: rest →
      (∀ k f, start ≤ k → outEventFields[k]? = some f → s.evt.getLsbD (s.par.lo f s.epn) = false) →
      step s = .next { s with cont := rest }) ∧
    (s.cont = .inEvents start :: rest →
      (∀ k f, start ≤ k → inEventFields[k]? = some f → s.evt.getLsbD (s.par.lo f s.epn) = false) →
      step s = .next { s with cont := rest })

/-- What follows a handler or a called rule when it has returned: the one-hot acknowledgement of the global bit (R181, R186),
of the STUP bit (R252), the end of IRQ (R284), the second flush and the rest of EV_USB_RESET (R163). That the hidden registers
keep their values after the pass is the model's choice (log 30). -/
def Obligations.StepReturnsFromCalls : Prop :=
  ∀ (s : State) (rest : List Frame), s.par.wf = true → s.resetIn = none → (∀ c ∈ s.calls, c = .irq) →
    (∀ j, s.cont = .ackGint j :: rest →
      step s = .next { s with cont := rest, trace := s.trace ++ [.wr ⟨.intSts, 0⟩ (1#32 <<< j)] }) ∧
    (s.cont = .ackStup :: rest →
      step s = .next
        { s with cont := rest, trace := s.trace ++ [.wr ⟨.outInt, 0⟩ (1#32 <<< s.par.lo .outStup)] }) ∧
    (s.cont = .irqExit :: rest →
      step s = .next { s with cont := rest, seq := .idle, trace := s.trace ++ [.irqExit] }) ∧
    (s.cont = .flushRx :: rest → step s = exec .flushRx { s with cont := rest }) ∧
    (s.cont = .usbResetTail :: rest →
      step s = .next
        { s with
          cont := rest
          addr := 0
          devState := .resettingBus
          trace := s.trace ++
            [.wrFields ⟨.devCfg, 0⟩ [(.devAddr, 0)],
             .wrFields ⟨.outTsiz, 0⟩ [(.outStupcnt, 1), (.outPktcnt, 1), (.outXfrsiz, 8)],
             .wrFields ⟨.outCtl, 0⟩ [(.outCnak, 1), (.outEpena, 1)]] })

/-- The platform host's calls (R283, R285, R286, R340): a reset and an initialiser call are taken at once in every mode, an
interrupt only where no pass is running; with no call to serve the block waits, and in HALTED it performs no step (R31). The
list of pending calls, the step that only waits and the fault in HALTED are the model's form (log 9, log 10, log 17). -/
def Obligations.StepTakesHostCalls : Prop :=
  ∀ (s : State) (cs : List HostCall), s.par.wf = true → s.resetIn = none →
    (s.calls = .reset :: cs → step s = exec .reset { s with calls := cs }) ∧
    (∀ v, s.calls = .init v :: cs → step s = exec (.init v) { s with calls := cs }) ∧
    (s.calls = .irq :: cs → s.cont = [] → step s = exec .irq { s with calls := cs }) ∧
    (s.calls = [] → s.cont = [] → s.seq ≠ .halted → step s = .next s) ∧
    (s.calls = [] → s.cont = [] → s.seq = .halted → step s = .fault (.halted s.fatalCause))

/-- A configuration that breaks R8, R65, R66 or R222 is refused, in every state, at every endpoint number. That a width other than
R35's, an empty range, a base not divisible by 4, and a write of a list to a register or field that the binding does not give
count among them is the model's reading (log 15, log 24). -/
def Obligations.BadConfigurationRefused : Prop :=
  ∀ s : State,
    ((∃ r : Reg, ∃ f ∈ s.par.fieldsOf r, s.par.fieldRow f r.n = none ∨ 32 < s.par.lo f r.n + s.par.width f r.n) ∨
      (∃ r : Reg, ∃ f ∈ s.par.fieldsOf r, ∃ w, f.width = some w ∧ s.par.rowWidth f r.n ≠ w) ∨
      (∃ r : Reg, ∃ f ∈ s.par.fieldsOf r, f.width = none ∧ s.par.rowWidth f r.n = 0) ∨
      (∃ r : Reg, ∃ f ∈ s.par.fieldsOf r, ∃ g ∈ s.par.fieldsOf r, f ≠ g ∧
        s.par.lo f r.n < s.par.lo g r.n + s.par.width g r.n ∧ s.par.lo g r.n < s.par.lo f r.n + s.par.width f r.n) ∨
      (∃ c ∈ s.par.rxkCodes, 2 ^ s.par.width .rxStatusKind ≤ c.toNat) ∨
      ¬ s.par.rxkCodes.Nodup ∨ ¬ s.par.reqCodes.Nodup ∨ ¬ s.par.dtCodes.Nodup ∨
      (∃ r : Reg, r.legal = true ∧ (∀ k, r.name ≠ .other k) ∧ s.par.regRow r = none) ∨ s.par.base.toNat % 4 ≠ 0 ∨
      (∃ row ∈ s.par.regs, row.offset % 4 ≠ 0 ∨ row.stride % 4 ≠ 0) ∨
      (∃ e ∈ s.par.descTable, 64 < e.bytes.length) ∨
      (∃ e ∈ s.par.initWrites ++ s.par.resetMaskWrites ++ s.par.enumUnmaskWrites, ∃ r : Reg,
        (cfgWritesReg r e = true ∧ (r.legal = false ∨ s.par.regRow r = none)) ∨
        ∃ fs, e = .fields r fs ∧ ∃ x ∈ fs, x.1 ∉ s.par.fieldsOf r)) →
    step s = .refused .badConfiguration

/-- Nothing else stops: under a configuration the model accepts a step gives a next state in every state, whatever the bytes
of its registers and the environment's answers are, but for the block that stands halted with nothing to do. That a step there
is a fault, and that a block that waits steps to the same state, are the model's forms (log 9, log 17). -/
def Obligations.StepStopsOnlyWhenHalted : Prop :=
  ∀ s : State, s.par.wf = true →
    (∃ t, step s = .next t) ∨
    (s.seq = .halted ∧ s.cont = [] ∧ s.calls = [] ∧ s.resetIn = none ∧ step s = .fault (.halted s.fatalCause))

/-- The reset input in the middle of an operation (R340): of the records that the operation would make, those before the
reset stay, the remaining accesses are not made, and the block is in its reset state; a reset that falls after the operation
is still to come. In HALTED with nothing to do, where there is no operation, the reset input alone leads out (R305), without a
record. The state named `r` says nothing of the fields that R340 leaves unspecified. That the reset input is a count of records
is the model's form (log 13). -/
def Obligations.ResetCutsOperation : Prop :=
  (∀ (s t : State) (k : Nat) (rs : List Record), s.par.wf = true → s.resetIn = some k → s.advance = .next t →
    t.trace = s.trace ++ rs →
    (k ≤ rs.length → ∃ r, step s = .next r ∧ r.trace = s.trace ++ rs.take k ∧ r.AtReset ∧ r.resetIn = none ∧
      r.par = s.par) ∧
    (rs.length < k → step s = .next { t with resetIn := some (k - rs.length) })) ∧
  (∀ (s : State) (k : Nat), s.par.wf = true → s.resetIn = some k → s.seq = .halted → s.cont = [] → s.calls = [] →
    ∃ r, step s = .next r ∧ r.trace = s.trace ∧ r.AtReset ∧ r.resetIn = none ∧ r.par = s.par ∧
      r.answers = s.answers ∧ r.calls = [])

/-! ## Invariants -/

/-- The invariant holds right after reset. -/
def Obligations.InvAtReset : Prop := State.reset.Inv

/-- Every step keeps the invariant, from every state that has it: the transmit buffer keeps its 64 bytes and `ctx.txlen`
stays at most 64, `halted`, `fatal_cause` and `seq` say the same, and the sequencer stands at a place that the pseudocode
has, with the return places of that place below it. -/
def Obligations.StepKeepsInv : Prop :=
  ∀ s t : State, s.Inv → step s = .next t → t.Inv

/-- A position inside HANDLER is never deeper than the dispatcher's two places, an endpoint handler, the endpoint-0 protocol
with its acknowledgement, and the end of IRQ (R10, R44: the call depth is bounded and nothing is recursive). -/
def Obligations.PositionDepthBounded : Prop := ∀ s : State, s.Inv → s.cont.length ≤ 6

/-- No step changes the parameters (the handler table and the Descriptor Table are fixed, R80, R82), and the trace only grows:
no record is dropped or reordered (R73). With the parameters as the argument of the step relation (R80) a step answers a state
that carries those parameters again, whichever the state before carried: so a run is one under one configuration. -/
def Obligations.StepKeepsParametersAndTrace : Prop :=
  (∀ s t : State, step s = .next t → t.par = s.par ∧ ∃ rs, t.trace = s.trace ++ rs) ∧
  (∀ (p q : Params) (s t : State), stepUnder p s = .next t →
    t.par = p ∧ stepUnder p { s with par := q } = .next t ∧ stepUnder p t = step t)

/-- The enumeration state only advances along Uninitialized, Powered, ResettingBus, DefaultAddress, by at most one place in a
step, so it never goes back, stays at DefaultAddress once there, and never becomes Addressed or Suspended but by a reset; a
trigger delivered outside its required source state leaves it as it is, in every state, legal or not; and so does SET_ADDRESS
(R169). -/
def Obligations.StepAdvancesDeviceState : Prop :=
  (∀ s t : State, s.Inv → s.resetIn = none → s.calls.head? ≠ some .reset → step s = .next t →
    s.devState.advances t.devState = true) ∧
  (∀ s t : State,
    (s.devState ≠ .uninitialized → exec .evSession s = .next t → t.devState = s.devState) ∧
    (s.devState ≠ .powered → exec .evUsbReset s = .next t → t.devState = s.devState) ∧
    (s.devState ≠ .resettingBus → exec .evEnumDone s = .next t → t.devState = s.devState) ∧
    (∀ a, exec (.reqSetAddress a) s = .next t → t.devState = s.devState))

/-- In every state, legal or not: no operation but EV_SESSION, EV_USB_RESET, EV_ENUM_DONE and the two that set the whole context
(RESET, INIT) writes `ctx.state` (R22, R169); none writes the address but EV_USB_RESET, REQ_SET_ADDRESS and those two (R20);
none but RESET and INIT changes the flag `cfg.vbus_sense` (R28); none but RX_SETUP_UPDATE and RESET writes `ctx.setup` (R20). -/
def Obligations.ContextWriters : Prop :=
  ∀ (i : Instr) (s t : State), exec i s = .next t →
    (i ≠ .evSession → i ≠ .evUsbReset → i ≠ .evEnumDone → i ≠ .reset → (∀ v, i ≠ .init v) → t.devState = s.devState) ∧
    (i ≠ .evUsbReset → (∀ a, i ≠ .reqSetAddress a) → i ≠ .reset → (∀ v, i ≠ .init v) → t.addr = s.addr) ∧
    (i ≠ .reset → (∀ v, i ≠ .init v) → t.vbusSense = s.vbusSense) ∧
    ((∀ ep bc dt, i ≠ .rxSetupUpdate ep bc dt) → i ≠ .reset → t.setup = s.setup) ∧
    (i ≠ .evEnumDone → i ≠ .reset → t.speed = s.speed)

/-- A halted block stays as it is: no step but a reset changes anything of it, whatever the host calls, so a second Fatal cannot
happen and the cause named is the first and only one; and a reset leaves HALTED (R305). That the host's calls wait in a list,
and that an ignored call is a step which changes that list alone, where R283 gives such a call no step, is the model's choice
(log 10). -/
def Obligations.HaltedLeavesByResetOnly : Prop :=
  ∀ s : State, s.Inv → s.halted = true → s.resetIn = none →
    (∀ t, s.calls.head? ≠ some .reset → step s = .next t → t = { s with calls := s.calls.tail }) ∧
    (s.par.wf = true → s.calls.head? = some .reset →
      ∃ t, step s = .next t ∧ t.halted = false ∧ t.fatalCause = none ∧ t.seq = .preInit)

/-! ## Reset, initialiser, interrupt -/

/-- RESET (R340, R45): accepted in every mode, no access, the reset values of the registers that have one. Nothing is said of
the registers the spec leaves unspecified, but that the buffer has its 64 bytes. The status outputs are those of R287, the spec's
own proposal (decision D1; log 6). That the trace, the answers, the pending calls, the reset input and the parameters stay is the
model's choice (log 27). -/
def Obligations.ResetLeavesResetState : Prop :=
  ∀ s : State, ∃ t, exec .reset s = .next t ∧
    t.seq = .preInit ∧ t.cont = [] ∧ t.halted = false ∧ t.fatalCause = none ∧ t.txStatus = .ok ∧
    t.devState = .uninitialized ∧ t.addr = 0 ∧ t.txlen = 0 ∧ t.vbusSense = false ∧ t.txbuf.length = 64 ∧
    t.trace = s.trace ∧ t.answers = s.answers ∧ t.calls = s.calls ∧ t.resetIn = s.resetIn ∧ t.par = s.par ∧
    t.statusOutputs = ⟨false, 0, 0, 0, 0⟩

/-- INIT in PRE_INIT (R281, R282): the flag, the context, the writes of the parameter list in order, and IDLE. With the default
parameters the list is the five writes of R282. -/
def Obligations.InitRunsWriteList : Prop :=
  ∀ (s : State) (v : Bool), s.seq = .preInit →
    exec (.init v) s = .next
      { s with
        vbusSense := v
        devState := .uninitialized
        addr := 0
        txlen := 0
        seq := .idle
        trace := s.trace ++ .init v :: s.par.initWrites.map (cfgRecord s.par v) } ∧
    Params.default.initWrites.map (cfgRecord Params.default v) =
      [.wrFields ⟨.devCtl, 0⟩ [(.softDisconnect, 1)],
       .wrFields ⟨.genCfg, 0⟩ [(.vbusSensing, if v then 1 else 0)],
       .wrFields ⟨.usbCfg, 0⟩ [(.turnaround, 6)],
       .wr ⟨.intMsk, 0⟩ 0x400C3012,
       .wrFields ⟨.ahbCfg, 0⟩ [(.globalIntEnable, 1)]]

/-- Calls outside the contract are ignored (R283): no record and no change; an INIT in any mode but PRE_INIT, an IRQ in any
mode but IDLE. -/
def Obligations.EntryCallsIgnored : Prop :=
  ∀ s : State,
    (∀ v, s.seq ≠ .preInit → exec (.init v) s = .next s) ∧ (s.seq ≠ .idle → exec .irq s = .next s)

/-- IRQ in IDLE and DISPATCH (R284, R181): HANDLER, the record of the entry, one read of the status word into the snapshot, and
the loop from bit 0, with the end of IRQ below it. -/
def Obligations.IrqEntersDispatch : Prop :=
  ∀ s : State,
    (s.seq = .idle →
      exec .irq s = .next
        { s.answerTaken with
          seq := .handler
          snap := s.answerValue
          cont := .scan 0 :: .irqExit :: s.cont
          trace := s.trace ++ [.irqEnter, .rdWord ⟨.intSts, 0⟩ s.answerValue] }) ∧
    exec .dispatch s = .next
      { s.answerTaken with
        snap := s.answerValue
        cont := .scan 0 :: s.cont
        trace := s.trace ++ [.rdWord ⟨.intSts, 0⟩ s.answerValue] }

/-- A whole pass over a status word none of whose set bits has a handler (R104, R181, R186, R284): one read, then for every set
bit, ascending, exactly one one-hot write and nothing else, then the exit, with the block idle again. That `idx` is 32 and
`snap` as read after the loop is the model's choice (log 22, log 30), and the number of steps rests on its granularity (log 1). -/
def Obligations.PassAcknowledgesEachBitOnce : Prop :=
  ∀ s : State, s.par.wf = true → s.resetIn = none → s.seq = .idle → s.cont = [] → s.calls = [.irq] →
    (∀ j, j < 32 → s.answerValue.getLsbD j = true → s.par.handlerAt j = none) →
    let bits := (List.range 32).filter (fun j => s.answerValue.getLsbD j)
    Host.Core.run Sys2Proof.core (bits.length + 3) s = .next
      { s.answerTaken with
        calls := []
        snap := s.answerValue
        idx := 32
        trace := s.trace ++ [.irqEnter, .rdWord ⟨.intSts, 0⟩ s.answerValue] ++
          bits.map (fun j => Record.wr ⟨.intSts, 0⟩ (1#32 <<< j)) ++ [.irqExit] }

/-- No operation but an ACK_ONLY row writes `G.INT_STS`, as long as no parameter list does: the dispatcher's own write is the
only acknowledgement (R186). -/
def Obligations.HandlersDoNotAcknowledge : Prop :=
  ∀ (i : Instr) (s t : State), exec i s = .next t → (∀ j, ackOnlyAt j ≠ some i) →
    (∀ w ∈ s.par.initWrites ++ s.par.resetMaskWrites ++ s.par.enumUnmaskWrites,
      cfgWritesReg ⟨.intSts, 0⟩ w = false) →
    ∃ rs, t.trace = s.trace ++ rs ∧
      ∀ r ∈ rs, (∀ v, r ≠ .wr ⟨.intSts, 0⟩ v) ∧ (∀ fs, r ≠ .wrFields ⟨.intSts, 0⟩ fs)

/-- ACK_ONLY.b<i> (R184), each of the 25 positions: the one-hot write of that position and nothing else. -/
def Obligations.AckOnlyWritesItsBit : Prop :=
  ∀ (s : State) (x : Nat × Instr),
    x ∈ [(0, Instr.ackOnlyB0), (2, .ackOnlyB2), (3, .ackOnlyB3), (5, .ackOnlyB5), (6, .ackOnlyB6), (7, .ackOnlyB7),
      (8, .ackOnlyB8), (9, .ackOnlyB9), (10, .ackOnlyB10), (11, .ackOnlyB11), (14, .ackOnlyB14), (15, .ackOnlyB15),
      (16, .ackOnlyB16), (17, .ackOnlyB17), (20, .ackOnlyB20), (21, .ackOnlyB21), (22, .ackOnlyB22), (23, .ackOnlyB23),
      (24, .ackOnlyB24), (25, .ackOnlyB25), (26, .ackOnlyB26), (27, .ackOnlyB27), (28, .ackOnlyB28), (29, .ackOnlyB29),
      (31, .ackOnlyB31)] →
    exec x.2 s = .next { s with trace := s.trace ++ [.wr ⟨.intSts, 0⟩ (BitVec.ofNat 32 (2 ^ x.1))] }

/-! ## Exceptions -/

/-- `raise Fatal(c)` (R304, R301) and EV_MODE_MISMATCH, which always raises cause 1 (R183): the record, `halted`, the cause,
HALTED, no position left; nothing is saved and every context register keeps its value. The entry and the codes are the
spec's own decision D27 (log 6); that a mode mismatch is fatal is R183. -/
def Obligations.FatalEntry : Prop :=
  ∀ s : State,
    (∀ c, exec (.fatal c) s = .next
      { s with
        halted := true
        fatalCause := some c
        seq := .halted
        cont := []
        trace := s.trace ++ [.fatal c] }) ∧
    exec .evModeMismatch s = .next
      { s with
        halted := true
        fatalCause := some .modeMismatch
        seq := .halted
        cont := []
        trace := s.trace ++ [.fatal .modeMismatch] } ∧
    [Cause.modeMismatch, .setupEp, .setupLen, .stupEp, .setAddressState, .spinTimeout].map causeCode = [1, 2, 3, 4, 5, 6]

/-- `report TxAbort(k)` (R306, R32): the status code and the record, and nothing else; execution goes on. -/
def Obligations.TxAbortReported : Prop :=
  ∀ s : State,
    exec (.txabort .inactive) s = .next
      { s with txStatus := .abortInactive, trace := s.trace ++ [.txabort .inactive] } ∧
    exec (.txabort .noSpace) s = .next
      { s with txStatus := .abortNoSpace, trace := s.trace ++ [.txabort .noSpace] } ∧
    [TxStatus.ok, .abortInactive, .abortNoSpace].map TxStatus.code = [0, 1, 2]

/-! ## The Device State Machine -/

/-- EV_SESSION (R161): the flag is read in every state; with it set and in Uninitialized, the soft connect and Powered; in
every other case the read is all. -/
def Obligations.SessionValid : Prop :=
  ∀ s : State,
    (s.fieldValue .bSessionValid = 1 → s.devState = .uninitialized →
      exec .evSession s = .next
        { s.answerTaken with
          devState := .powered
          trace := s.trace ++
            [.rd ⟨.otgCtl, 0⟩ .bSessionValid 1, .wrFields ⟨.devCtl, 0⟩ [(.softDisconnect, 0)]] }) ∧
    (s.fieldValue .bSessionValid = 0 ∨ s.devState ≠ .uninitialized →
      exec .evSession s = .next
        { s.answerTaken with
          trace := s.trace ++ [.rd ⟨.otgCtl, 0⟩ .bSessionValid (s.fieldValue .bSessionValid)] })

/-- A bus reset outside Powered and an enumeration done outside ResettingBus are no-ops without an access (R160, R163, R166,
R168). -/
def Obligations.OutOfStateTriggersIgnored : Prop :=
  ∀ s : State,
    (s.devState ≠ .powered → exec .evUsbReset s = .next s) ∧
    (s.devState ≠ .resettingBus → exec .evEnumDone s = .next s)

/-- EV_USB_RESET in Powered whose four busy-waits are each answered at the first read (R163, R141, R142, R165): the mask writes,
the TX flush, the RX flush, the device address, OUT endpoint 0 armed for a setup packet, and ResettingBus. -/
def Obligations.UsbResetAnswered : Prop :=
  ∀ s : State, s.devState = .powered →
    s.fieldValue .ahbIdle = 1 →
    s.answerTaken.fieldValue .txfFlush = 0 →
    s.answerTaken.answerTaken.fieldValue .ahbIdle = 1 →
    s.answerTaken.answerTaken.answerTaken.fieldValue .rxfFlush = 0 →
    exec .evUsbReset s = .next
      { s.answerTaken.answerTaken.answerTaken.answerTaken with
        addr := 0
        devState := .resettingBus
        trace := s.trace ++ s.par.resetMaskWrites.map (cfgRecord s.par s.vbusSense) ++
          [.rd ⟨.rstCtl, 0⟩ .ahbIdle 1,
           .wrFields ⟨.rstCtl, 0⟩ [(.txfNum, truncTo 5 s.par.flushTxfnum), (.txfFlush, 1)],
           .rd ⟨.rstCtl, 0⟩ .txfFlush 0,
           .rd ⟨.rstCtl, 0⟩ .ahbIdle 1,
           .wrFields ⟨.rstCtl, 0⟩ [(.rxfFlush, 1)],
           .rd ⟨.rstCtl, 0⟩ .rxfFlush 0,
           .wrFields ⟨.devCfg, 0⟩ [(.devAddr, 0)],
           .wrFields ⟨.outTsiz, 0⟩ [(.outStupcnt, 1), (.outPktcnt, 1), (.outXfrsiz, 8)],
           .wrFields ⟨.outCtl, 0⟩ [(.outCnak, 1), (.outEpena, 1)]] }

/-- EV_USB_RESET with an unanswered first read in any of its four busy-waits (R163, R140 to R142), the ones before it answered:
the accesses up to that read, and then the sequencer waits there with the rest of the handler below it, the state still
Powered; with `SPIN_LIMIT` 1 that read halts the block (`State.waits`). -/
def Obligations.UsbResetHangsInPowered : Prop :=
  ∀ s : State, s.devState = .powered → s.par.spinLimit ≠ some 0 →
    let s1 := s.answerTaken
    let s2 := s1.answerTaken
    let s3 := s2.answerTaken
    let masks := s.trace ++ s.par.resetMaskWrites.map (cfgRecord s.par s.vbusSense)
    let tx := [Record.rd ⟨.rstCtl, 0⟩ .ahbIdle 1,
      .wrFields ⟨.rstCtl, 0⟩ [(.txfNum, truncTo 5 s.par.flushTxfnum), (.txfFlush, 1)]]
    let rx := [Record.rd ⟨.rstCtl, 0⟩ .ahbIdle 1, .wrFields ⟨.rstCtl, 0⟩ [(.rxfFlush, 1)]]
    (s.fieldValue .ahbIdle = 0 →
      exec .evUsbReset s = .next
        (State.waits { s1 with trace := masks ++ [.rd ⟨.rstCtl, 0⟩ .ahbIdle 0] } .txIdle [.flushRx, .usbResetTail])) ∧
    (s.fieldValue .ahbIdle = 1 → s1.fieldValue .txfFlush = 1 →
      exec .evUsbReset s = .next
        (State.waits { s2 with trace := masks ++ tx ++ [.rd ⟨.rstCtl, 0⟩ .txfFlush 1] } .txDone [.flushRx, .usbResetTail])) ∧
    (s.fieldValue .ahbIdle = 1 → s1.fieldValue .txfFlush = 0 → s2.fieldValue .ahbIdle = 0 →
      exec .evUsbReset s = .next
        (State.waits { s3 with
            trace := masks ++ tx ++ [.rd ⟨.rstCtl, 0⟩ .txfFlush 0] ++
              [.rd ⟨.rstCtl, 0⟩ .ahbIdle 0] } .rxIdle [.usbResetTail])) ∧
    (s.fieldValue .ahbIdle = 1 → s1.fieldValue .txfFlush = 0 → s2.fieldValue .ahbIdle = 1 →
      s3.fieldValue .rxfFlush = 1 →
      exec .evUsbReset s = .next
        (State.waits { s3.answerTaken with
            trace := masks ++ tx ++ [.rd ⟨.rstCtl, 0⟩ .txfFlush 0] ++ rx ++
              [.rd ⟨.rstCtl, 0⟩ .rxfFlush 1] } .rxDone [.usbResetTail]))

/-- EV_ENUM_DONE in ResettingBus (R166): the speed is latched, whatever it is, then the four writes in order, and
DefaultAddress. -/
def Obligations.EnumDoneRuns : Prop :=
  ∀ s : State, s.devState = .resettingBus →
    exec .evEnumDone s = .next
      { s.answerTaken with
        speed := (s.fieldValue .enumSpeed).setWidth 2
        devState := .defaultAddress
        trace := s.trace ++
          [.rd ⟨.devSts, 0⟩ .enumSpeed (s.fieldValue .enumSpeed),
           .wrFields ⟨.inCtl, 0⟩ [(.inMpsiz, 0)],
           .wrFields ⟨.devCtl, 0⟩ [(.clearGlobalInNak, 1)],
           .wrFields ⟨.usbCfg, 0⟩ [(.turnaround, truncTo 4 s.par.trdt)]] ++
          s.par.enumUnmaskWrites.map (cfgRecord s.par s.vbusSense) }

/-! ## The RX Classifier -/

/-- EV_RX_STATUS (R201): exactly one pop, always; the word is classified next. -/
def Obligations.RxStatusPopped : Prop :=
  ∀ s : State,
    exec .evRxStatus s = .next
      { s.answerTaken with
        rxw := s.answerValue
        cont := .rxDecode :: s.cont
        trace := s.trace ++ [.rxpop s.answerValue] }

/-- The five kinds that move no data change nothing after the pop, whatever endpoint, byte count and toggle the word names
(R204, R205, R206, R208; for RX_RESERVED the spec's own decision D19, R207; that the data of a Data-Update stay undrained its
decision D21; log 6). That `rxw` keeps the word after the handler is the model's choice (log 30). -/
def Obligations.RxKindsWithoutData : Prop :=
  ∀ (s : State) (kind ep bc dt : Word) (i : Instr),
    i ∈ [Instr.rxNak ep bc dt, .rxDataUpdate ep bc dt, .rxXferComplete ep bc dt, .rxSetupComplete ep bc dt,
      .rxReserved kind ep bc dt] →
    exec i s = .next s

/-- RX_SETUP_UPDATE on endpoint 0 with 8 bytes (R203, R64): two pops of FIFO 0, the first word in the low half of the packet and
the second in the high half, the previous packet lost. -/
def Obligations.RxSetupCopies : Prop :=
  ∀ s : State, ∀ dt : Word,
    exec (.rxSetupUpdate 0 8 dt) s = .next
      { s.answerTaken.answerTaken with
        setup := s.answerTaken.answerValue ++ s.answerValue
        trace := s.trace ++ [.pop 0 s.answerValue, .pop 0 s.answerTaken.answerValue] }

/-- RX_SETUP_UPDATE with a malformed word (R202): the endpoint is tested before the length, each with its own cause; nothing is
popped and the packet is as before. -/
def Obligations.RxSetupMalformed : Prop :=
  ∀ (s : State) (ep bc dt : Word),
    (ep ≠ 0 → exec (.rxSetupUpdate ep bc dt) s = .next
      { s with
        halted := true
        fatalCause := some .setupEp
        seq := .halted
        cont := []
        trace := s.trace ++ [.fatal .setupEp] }) ∧
    (ep = 0 → bc ≠ 8 → exec (.rxSetupUpdate ep bc dt) s = .next
      { s with
        halted := true
        fatalCause := some .setupLen
        seq := .halted
        cont := []
        trace := s.trace ++ [.fatal .setupLen] })

/-! ## Endpoint events -/

/-- EV_OUT_EP and EV_IN_EP (R250, R255): one read of the aggregate word; its half is decoded next. -/
def Obligations.EndpointHandlersReadAggregate : Prop :=
  ∀ s : State,
    exec .evOutEp s = .next
      { s.answerTaken with
        agg := s.answerValue
        cont := .outDecode :: s.cont
        trace := s.trace ++ [.rdWord ⟨.epInt, 0⟩ s.answerValue] } ∧
    exec .evInEp s = .next
      { s.answerTaken with
        agg := s.answerValue
        cont := .inDecode :: s.cont
        trace := s.trace ++ [.rdWord ⟨.epInt, 0⟩ s.answerValue] }

/-- EPAGG_OUT and EPAGG_IN (R108, R250, R255): an empty half ends the handler without an access; otherwise the event word of the
lowest pending endpoint, and of no other, is read once and inspected from its first bit. -/
def Obligations.LowestPendingEndpointServed : Prop :=
  ∀ (s : State) (m : BitVec 16),
    (m = 0 → exec (.epaggOut m) s = .next s ∧ exec (.epaggIn m) s = .next s) ∧
    (∀ n : EpNum, m.getLsbD n.toNat = true → (∀ k, k < n.toNat → m.getLsbD k = false) →
      exec (.epaggOut m) s = .next
        { s.answerTaken with
          epn := n
          evt := s.answerValue
          cont := .outEvents 0 :: s.cont
          trace := s.trace ++ [.rdWord ⟨.outInt, n⟩ s.answerValue] } ∧
      exec (.epaggIn m) s = .next
        { s.answerTaken with
          epn := n
          evt := s.answerValue
          cont := .inEvents 0 :: s.cont
          trace := s.trace ++ [.rdWord ⟨.inInt, n⟩ s.answerValue] })

/-- The endpoint events that are acknowledged only (R251, R253, R254, R259, R257, R258), and IEP_XFRC, which re-arms the OUT
endpoint of the same number before its acknowledgement (R256): one-hot writes of the bound position, on every endpoint. The
three IN operations are as the spec's own decision D26 has them (log 6). -/
def Obligations.EndpointEventsAcknowledged : Prop :=
  ∀ (s : State) (n : EpNum),
    (∀ x ∈ [(Field.outXfrc, Instr.oepXfrc n), (.outEpdisd, .oepEpdisd n), (.outOtepdis, .oepOtepdis n),
        (.outNak, .oepNak n)],
      exec x.2 s = .next { s with trace := s.trace ++ [.wr ⟨.outInt, n⟩ (1#32 <<< s.par.lo x.1 n)] }) ∧
    (∀ x ∈ [(Field.inEpdisd, Instr.iepEpdisd n), (.inNak, .iepNak n)],
      exec x.2 s = .next { s with trace := s.trace ++ [.wr ⟨.inInt, n⟩ (1#32 <<< s.par.lo x.1 n)] }) ∧
    exec (.iepXfrc n) s = .next
      { s with
        trace := s.trace ++
          [.wrFields ⟨.outCtl, n⟩ [(.outCnak, 1), (.outEpena, 1)], .wr ⟨.inInt, n⟩ (1#32 <<< s.par.lo .inXfrc n)] }

/-- OEP_STUP (R252): on endpoint 0 the endpoint-0 protocol runs next and the acknowledgement follows it; on any other endpoint
cause CV_STUP_EP, with the bit not acknowledged. -/
def Obligations.SetupPhaseDone : Prop :=
  ∀ s : State,
    exec (.oepStup 0) s = .next { s with cont := .setupDecode :: .ackStup :: s.cont } ∧
    ∀ n : EpNum, n ≠ 0 →
      exec (.oepStup n) s = .next
        { s with
          halted := true
          fatalCause := some .stupEp
          seq := .halted
          cont := []
          trace := s.trace ++ [.fatal .stupEp] }

/-! ## The endpoint-0 protocol -/

/-- EP0_SETUP and REQ_GET_DESCRIPTOR (R223, R225): each only selects, with no access of its own, and goes on at the selected
operation: the request byte of the stored packet, the tag of the request. That REQ_GET_DESCRIPTOR only selects, and the
sub-operation runs in the next step, is the model's choice: R225 runs both as one (log 16); so is the step between EP0_SETUP and
its request (log 1). -/
def Obligations.ProtocolSelects : Prop :=
  ∀ s : State,
    exec .ep0Setup s = .next { s with cont := .setupDecode :: s.cont } ∧
    ∀ (t i : Byte) (len : BitVec 16),
      exec (.reqGetDescriptor t i len) s = .next { s with cont := .descDecode t i len :: s.cont }

/-- What the block does not answer (R228 to R244): the nine recognised requests, an unknown request, the descriptor tags without
lookup and UNSUPPORTED itself do nothing at all by default, and under `STALL_ON_UNSUPPORTED` make the two writes of STALL_EP0,
which alone makes them always (R229). The STALL option is the spec's own decision D25 (R229, R244), the unknown
request its D24 (R243; log 6). -/
def Obligations.UnsupportedIsDropped : Prop :=
  ∀ (s : State) (r t : Byte),
    (∀ i ∈ [Instr.reqGetStatus, .reqClearFeature, .reqSetFeature, .reqSetDescriptor, .reqGetConfiguration,
        .reqSetConfiguration, .reqGetInterface, .reqSetInterface, .reqSynchFrame, .reqUnknown r, .getDescriptorString,
        .getDescriptorInterface, .getDescriptorEndpoint, .getDescriptorQualifier, .getDescriptorOther t, .unsupported],
      (s.par.stallOnUnsupported = false → exec i s = .next s) ∧
      (s.par.stallOnUnsupported = true → exec i s = .next
        { s with
          trace := s.trace ++ [.wrFields ⟨.inCtl, 0⟩ [(.inStall, 1)], .wrFields ⟨.outCtl, 0⟩ [(.outStall, 1)]] })) ∧
    exec .stallEp0 s = .next
      { s with
        trace := s.trace ++ [.wrFields ⟨.inCtl, 0⟩ [(.inStall, 1)], .wrFields ⟨.outCtl, 0⟩ [(.outStall, 1)]] }

/-- REQ_SET_ADDRESS in DefaultAddress or Addressed with endpoint 0 active (R224, R145): the address register and `ctx.addr`,
then the zero-length status packet, which no lack of space can abort; `ctx.state` is not written. That the word counter `txk` is 0
after it is the model's choice (log 22). -/
def Obligations.SetAddressAnswered : Prop :=
  ∀ (s : State) (a : BitVec 7), s.devState = .defaultAddress ∨ s.devState = .addressed →
    s.fieldValue .inActive = 1 →
    exec (.reqSetAddress a) s = .next
      { s.answerTaken.answerTaken with
        addr := a
        txStatus := .ok
        txk := 0
        trace := s.trace ++
          [.wrFields ⟨.devCfg, 0⟩ [(.devAddr, a.setWidth 32)],
           .rd ⟨.inCtl, 0⟩ .inActive 1,
           .rd ⟨.inFifoSts, 0⟩ .spaceAvail (s.answerTaken.fieldValue .spaceAvail),
           .wrFields ⟨.inTsiz, 0⟩ [(.inPktcnt, 1), (.inXfrsiz, 0)],
           .wrFields ⟨.inCtl, 0⟩ [(.inStall, 0)],
           .wrFields ⟨.inCtl, 0⟩ [(.inCnak, 1), (.inEpena, 1)],
           .wrFields ⟨.outCtl, 0⟩ [(.outCnak, 1), (.outEpena, 1)]] }

/-- REQ_SET_ADDRESS otherwise (R224, R306): in any other state cause CV_SET_ADDRESS_STATE, with nothing written; with endpoint 0
inactive the address is programmed already and no status packet is sent. -/
def Obligations.SetAddressNotAnswered : Prop :=
  ∀ (s : State) (a : BitVec 7),
    (s.devState ≠ .defaultAddress → s.devState ≠ .addressed →
      exec (.reqSetAddress a) s = .next
        { s with
          halted := true
          fatalCause := some .setAddressState
          seq := .halted
          cont := []
          trace := s.trace ++ [.fatal .setAddressState] }) ∧
    (s.devState = .defaultAddress ∨ s.devState = .addressed → s.fieldValue .inActive = 0 →
      exec (.reqSetAddress a) s = .next
        { s.answerTaken with
          addr := a
          txStatus := .abortInactive
          trace := s.trace ++
            [.wrFields ⟨.devCfg, 0⟩ [(.devAddr, a.setWidth 32)], .rd ⟨.inCtl, 0⟩ .inActive 0, .txabort .inactive] })

/-- GET_DESCRIPTOR for a device or a configuration descriptor that the table has (R225 to R227): the lookup, the first
`min(available, requested)` bytes staged with the rest of the buffer kept, and that many bytes sent as one packet. That the word
counter `txk` holds the number of pushed words after it is the model's choice (log 22). -/
def Obligations.GetDescriptorSends : Prop :=
  ∀ (s : State) (i : Byte) (len : BitVec 16) (bytes : List Byte) (x : Byte × Instr),
    x ∈ [(s.par.dtDevice, Instr.getDescriptorDevice i len), (s.par.dtConfiguration, .getDescriptorConfiguration i len)] →
    s.par.wf = true → s.par.descLookup x.1 i = some bytes → 0 < min bytes.length len.toNat →
    s.fieldValue .inActive = 1 →
    ceil4 (min bytes.length len.toNat) ≤ (s.answerTaken.fieldValue .spaceAvail).toNat →
    exec x.2 s = .next
      { s.answerTaken.answerTaken with
        txbuf := bytes.take (min bytes.length len.toNat) ++ s.txbuf.drop (min bytes.length len.toNat)
        txlen := BitVec.ofNat 7 (min bytes.length len.toNat)
        txStatus := .ok
        txk := BitVec.ofNat 5 (ceil4 (min bytes.length len.toNat))
        trace := s.trace ++
          [.desc x.1 i (some bytes.length),
           .rd ⟨.inCtl, 0⟩ .inActive 1,
           .rd ⟨.inFifoSts, 0⟩ .spaceAvail (s.answerTaken.fieldValue .spaceAvail)] ++
          sendRecords (bytes.take len.toNat) (min bytes.length len.toNat) }

/-- GET_DESCRIPTOR whose transmission aborts (R225, R143, R306): the bytes are staged, and the buffer and its length stay so;
the abort is reported in `tx_status`, and nothing is written to the peripheral. -/
def Obligations.GetDescriptorAborts : Prop :=
  ∀ (s : State) (i : Byte) (len : BitVec 16) (bytes : List Byte) (x : Byte × Instr),
    x ∈ [(s.par.dtDevice, Instr.getDescriptorDevice i len), (s.par.dtConfiguration, .getDescriptorConfiguration i len)] →
    s.par.descLookup x.1 i = some bytes → 0 < min bytes.length len.toNat →
    (s.fieldValue .inActive = 0 →
      exec x.2 s = .next
        { s.answerTaken with
          txbuf := bytes.take (min bytes.length len.toNat) ++ s.txbuf.drop (min bytes.length len.toNat)
          txlen := BitVec.ofNat 7 (min bytes.length len.toNat)
          txStatus := .abortInactive
          trace := s.trace ++
            [.desc x.1 i (some bytes.length), .rd ⟨.inCtl, 0⟩ .inActive 0, .txabort .inactive] }) ∧
    (s.fieldValue .inActive = 1 →
      (s.answerTaken.fieldValue .spaceAvail).toNat < ceil4 (min bytes.length len.toNat) →
      exec x.2 s = .next
        { s.answerTaken.answerTaken with
          txbuf := bytes.take (min bytes.length len.toNat) ++ s.txbuf.drop (min bytes.length len.toNat)
          txlen := BitVec.ofNat 7 (min bytes.length len.toNat)
          txStatus := .abortNoSpace
          trace := s.trace ++
            [.desc x.1 i (some bytes.length),
             .rd ⟨.inCtl, 0⟩ .inActive 1,
             .rd ⟨.inFifoSts, 0⟩ .spaceAvail (s.answerTaken.fieldValue .spaceAvail),
             .txabort .noSpace] })

/-- GET_DESCRIPTOR that finds nothing or nothing to send (R225, R244): the lookup, and what UNSUPPORTED does. -/
def Obligations.GetDescriptorDropped : Prop :=
  ∀ (s : State) (i : Byte) (len : BitVec 16) (x : Byte × Instr),
    x ∈ [(s.par.dtDevice, Instr.getDescriptorDevice i len), (s.par.dtConfiguration, .getDescriptorConfiguration i len)] →
    (s.par.descLookup x.1 i = none →
      exec x.2 s = .next
        { s with trace := s.trace ++ .desc x.1 i none :: unsupportedRecords s.par }) ∧
    (∀ bytes, s.par.descLookup x.1 i = some bytes → len = 0 ∨ bytes = [] →
      exec x.2 s = .next
        { s with trace := s.trace ++ .desc x.1 i (some bytes.length) :: unsupportedRecords s.par })

/-! ## The FIFO primitives -/

/-- FLUSH_TX and FLUSH_RX (R141, R142): three records where both busy-waits are answered at the first read, with no context
register changed; where the first read of the first or of the second is not answered, the accesses up to it, and the sequencer
waits there, or halts under a `SPIN_LIMIT` of 1 (R140, `State.waits`). -/
def Obligations.FlushAnswered : Prop :=
  ∀ s : State,
    let txReq := Record.wrFields ⟨.rstCtl, 0⟩ [(.txfNum, truncTo 5 s.par.flushTxfnum), (.txfFlush, 1)]
    let rxReq := Record.wrFields ⟨.rstCtl, 0⟩ [(.rxfFlush, 1)]
    (s.fieldValue .ahbIdle = 1 → s.answerTaken.fieldValue .txfFlush = 0 →
      exec .flushTx s = .next
        { s.answerTaken.answerTaken with
          trace := s.trace ++ [.rd ⟨.rstCtl, 0⟩ .ahbIdle 1, txReq, .rd ⟨.rstCtl, 0⟩ .txfFlush 0] }) ∧
    (s.fieldValue .ahbIdle = 1 → s.answerTaken.fieldValue .rxfFlush = 0 →
      exec .flushRx s = .next
        { s.answerTaken.answerTaken with
          trace := s.trace ++ [.rd ⟨.rstCtl, 0⟩ .ahbIdle 1, rxReq, .rd ⟨.rstCtl, 0⟩ .rxfFlush 0] }) ∧
    (s.par.spinLimit ≠ some 0 →
      (s.fieldValue .ahbIdle = 0 →
        exec .flushTx s = .next
          (State.waits { s.answerTaken with trace := s.trace ++ [.rd ⟨.rstCtl, 0⟩ .ahbIdle 0] } .txIdle []) ∧
        exec .flushRx s = .next
          (State.waits { s.answerTaken with trace := s.trace ++ [.rd ⟨.rstCtl, 0⟩ .ahbIdle 0] } .rxIdle [])) ∧
      (s.fieldValue .ahbIdle = 1 → s.answerTaken.fieldValue .txfFlush = 1 →
        exec .flushTx s = .next
          (State.waits { s.answerTaken.answerTaken with
              trace := s.trace ++ [.rd ⟨.rstCtl, 0⟩ .ahbIdle 1, txReq, .rd ⟨.rstCtl, 0⟩ .txfFlush 1] } .txDone [])) ∧
      (s.fieldValue .ahbIdle = 1 → s.answerTaken.fieldValue .rxfFlush = 1 →
        exec .flushRx s = .next
          (State.waits { s.answerTaken.answerTaken with
              trace := s.trace ++ [.rd ⟨.rstCtl, 0⟩ .ahbIdle 1, rxReq, .rd ⟨.rstCtl, 0⟩ .rxfFlush 1] } .rxDone [])))

/-- A busy-wait that is answered after it has waited (R140 to R142), at each of the four: an idle bus is followed by the
request and the first read of the second busy-wait, in one step, which ends the flush or waits in its turn; an answered second
busy-wait ends the flush, and the caller goes on at its place. -/
def Obligations.SpinAnswered : Prop :=
  ∀ (s : State) (n : Nat) (rest : List Frame), s.par.wf = true → s.resetIn = none → (∀ c ∈ s.calls, c = .irq) →
    let txReq := Record.wrFields ⟨.rstCtl, 0⟩ [(.txfNum, truncTo 5 s.par.flushTxfnum), (.txfFlush, 1)]
    let rxReq := Record.wrFields ⟨.rstCtl, 0⟩ [(.rxfFlush, 1)]
    (s.cont = .spin .txIdle n :: rest → s.fieldValue .ahbIdle = 1 →
      (s.answerTaken.fieldValue .txfFlush = 0 →
        step s = .next
          { s.answerTaken.answerTaken with
            cont := rest
            trace := s.trace ++ [.rd ⟨.rstCtl, 0⟩ .ahbIdle 1, txReq, .rd ⟨.rstCtl, 0⟩ .txfFlush 0] }) ∧
      (s.answerTaken.fieldValue .txfFlush = 1 → s.par.spinLimit ≠ some 0 →
        step s = .next
          (State.waits { s.answerTaken.answerTaken with
              cont := rest
              trace := s.trace ++ [.rd ⟨.rstCtl, 0⟩ .ahbIdle 1, txReq, .rd ⟨.rstCtl, 0⟩ .txfFlush 1] } .txDone []))) ∧
    (s.cont = .spin .rxIdle n :: rest → s.fieldValue .ahbIdle = 1 →
      (s.answerTaken.fieldValue .rxfFlush = 0 →
        step s = .next
          { s.answerTaken.answerTaken with
            cont := rest
            trace := s.trace ++ [.rd ⟨.rstCtl, 0⟩ .ahbIdle 1, rxReq, .rd ⟨.rstCtl, 0⟩ .rxfFlush 0] }) ∧
      (s.answerTaken.fieldValue .rxfFlush = 1 → s.par.spinLimit ≠ some 0 →
        step s = .next
          (State.waits { s.answerTaken.answerTaken with
              cont := rest
              trace := s.trace ++ [.rd ⟨.rstCtl, 0⟩ .ahbIdle 1, rxReq, .rd ⟨.rstCtl, 0⟩ .rxfFlush 1] } .rxDone []))) ∧
    (s.cont = .spin .txDone n :: rest → s.fieldValue .txfFlush = 0 →
      step s = .next
        { s.answerTaken with cont := rest, trace := s.trace ++ [.rd ⟨.rstCtl, 0⟩ .txfFlush 0] }) ∧
    (s.cont = .spin .rxDone n :: rest → s.fieldValue .rxfFlush = 0 →
      step s = .next
        { s.answerTaken with cont := rest, trace := s.trace ++ [.rd ⟨.rstCtl, 0⟩ .rxfFlush 0] })

/-- The busy-wait without a limit has no exit of its own (R140): as long as the read does not give the wanted value, a step is
one read and the sequencer is in the same busy-wait again. -/
def Obligations.SpinRepeatsForEver : Prop :=
  ∀ (s : State) (p : SpinPoint) (n : Nat) (rest : List Frame), s.par.wf = true → s.resetIn = none →
    (∀ c ∈ s.calls, c = .irq) → s.par.spinLimit = none → s.cont = .spin p n :: rest →
    s.fieldValue p.field ≠ p.want →
    step s = .next
      { s.answerTaken with
        cont := .spin p (n + 1) :: rest
        trace := s.trace ++ [.rd ⟨.rstCtl, 0⟩ p.field (s.fieldValue p.field)] }

/-- The busy-wait with a limit `N` (R140, R301): an unsuccessful read before the N-th leaves the sequencer in it, the N-th
raises CV_SPIN_TIMEOUT after its record. -/
def Obligations.SpinLimitFailsClosed : Prop :=
  ∀ (s : State) (p : SpinPoint) (n N : Nat) (rest : List Frame), s.par.wf = true → s.resetIn = none →
    (∀ c ∈ s.calls, c = .irq) → s.par.spinLimit = some N → s.cont = .spin p n :: rest →
    s.fieldValue p.field ≠ p.want →
    (n + 1 < N → step s = .next
      { s.answerTaken with
        cont := .spin p (n + 1) :: rest
        trace := s.trace ++ [.rd ⟨.rstCtl, 0⟩ p.field (s.fieldValue p.field)] }) ∧
    (n + 1 = N → step s = .next
      { s.answerTaken with
        halted := true
        fatalCause := some .spinTimeout
        seq := .halted
        cont := []
        trace := s.trace ++ [.rd ⟨.rstCtl, 0⟩ p.field (s.fieldValue p.field), .fatal .spinTimeout] })

/-- WRITE_TX whose checks both pass (R143, R63): the reads, the size, STALL, the enable, one push for each word, ascending, the
re-arming of OUT endpoint 0, and TX_OK. ZLP is the same with length 0, which no lack of space can abort (R145). That the word
counter `txk` holds the number of pushed words after it is the model's choice (log 22). -/
def Obligations.WriteTxSends : Prop :=
  ∀ s : State, s.fieldValue .inActive = 1 →
    (∀ (data : List Byte) (len : BitVec 16), len.toNat ≤ 64 → len.toNat ≤ data.length →
      ceil4 len.toNat ≤ (s.answerTaken.fieldValue .spaceAvail).toNat →
      exec (.writeTx data len) s = .next
        { s.answerTaken.answerTaken with
          txStatus := .ok
          txk := BitVec.ofNat 5 (ceil4 len.toNat)
          trace := s.trace ++
            [.rd ⟨.inCtl, 0⟩ .inActive 1,
             .rd ⟨.inFifoSts, 0⟩ .spaceAvail (s.answerTaken.fieldValue .spaceAvail),
             .wrFields ⟨.inTsiz, 0⟩ [(.inPktcnt, 1), (.inXfrsiz, len.setWidth 32)],
             .wrFields ⟨.inCtl, 0⟩ [(.inStall, 0)],
             .wrFields ⟨.inCtl, 0⟩ [(.inCnak, 1), (.inEpena, 1)]] ++
            (List.range (ceil4 len.toNat)).map (fun k => Record.push 0 (packWord data len.toNat k)) ++
            [.wrFields ⟨.outCtl, 0⟩ [(.outCnak, 1), (.outEpena, 1)]] }) ∧
    exec .zlp s = .next
      { s.answerTaken.answerTaken with
        txStatus := .ok
        txk := 0
        trace := s.trace ++
          [.rd ⟨.inCtl, 0⟩ .inActive 1,
           .rd ⟨.inFifoSts, 0⟩ .spaceAvail (s.answerTaken.fieldValue .spaceAvail),
           .wrFields ⟨.inTsiz, 0⟩ [(.inPktcnt, 1), (.inXfrsiz, 0)],
           .wrFields ⟨.inCtl, 0⟩ [(.inStall, 0)],
           .wrFields ⟨.inCtl, 0⟩ [(.inCnak, 1), (.inEpena, 1)],
           .wrFields ⟨.outCtl, 0⟩ [(.outCnak, 1), (.outEpena, 1)]] }

/-- WRITE_TX whose first or second check fails, and ZLP whose first does (R143, R145, R306): the reads of the checks, the
report, and not a single write. A call with more than 64 bytes, or with less data than its length, is refused (R143). -/
def Obligations.WriteTxAborts : Prop :=
  ∀ (s : State) (data : List Byte) (len : BitVec 16),
    (len.toNat ≤ 64 → len.toNat ≤ data.length → s.fieldValue .inActive = 0 →
      exec (.writeTx data len) s = .next
        { s.answerTaken with
          txStatus := .abortInactive
          trace := s.trace ++ [.rd ⟨.inCtl, 0⟩ .inActive 0, .txabort .inactive] }) ∧
    (s.fieldValue .inActive = 0 →
      exec .zlp s = .next
        { s.answerTaken with
          txStatus := .abortInactive
          trace := s.trace ++ [.rd ⟨.inCtl, 0⟩ .inActive 0, .txabort .inactive] }) ∧
    (len.toNat ≤ 64 → len.toNat ≤ data.length → s.fieldValue .inActive = 1 →
      (s.answerTaken.fieldValue .spaceAvail).toNat < ceil4 len.toNat →
      exec (.writeTx data len) s = .next
        { s.answerTaken.answerTaken with
          txStatus := .abortNoSpace
          trace := s.trace ++
            [.rd ⟨.inCtl, 0⟩ .inActive 1,
             .rd ⟨.inFifoSts, 0⟩ .spaceAvail (s.answerTaken.fieldValue .spaceAvail),
             .txabort .noSpace] }) ∧
    (64 < len.toNat ∨ data.length < len.toNat → exec (.writeTx data len) s = .refused .writeTxOperands)

/-- REARM_OUT on every endpoint and ARM_SETUP_OUT0 (R144, R165): the writes they list and nothing else. -/
def Obligations.OutEndpointArmed : Prop :=
  ∀ s : State,
    (∀ n, exec (.rearmOut n) s = .next
      { s with trace := s.trace ++ [.wrFields ⟨.outCtl, n⟩ [(.outCnak, 1), (.outEpena, 1)]] }) ∧
    exec .armSetupOut0 s = .next
      { s with
        trace := s.trace ++
          [.wrFields ⟨.outTsiz, 0⟩ [(.outStupcnt, 1), (.outPktcnt, 1), (.outXfrsiz, 8)],
           .wrFields ⟨.outCtl, 0⟩ [(.outCnak, 1), (.outEpena, 1)]] }
end

