-- ==== Sys2Proof/Laws/Operands.lean ====
section
/-! SUPPORT. What the searches for a set bit find (R9, R108, R181, R250), and bits of fields and one-hot words. -/

namespace Sys2Proof

/-- `nextSet` finds the lowest set bit at or above `start`. -/
theorem nextSet_eq_some_iff (w : Word) (start j : Nat) :
    nextSet w start = some j ↔
      start ≤ j ∧ j < 32 ∧ w.getLsbD j = true ∧ ∀ k, start ≤ k → k < j → w.getLsbD k = false := by
  unfold nextSet
  rw [List.find?_range_eq_some]
  simp only [Bool.and_eq_true, decide_eq_true_eq, List.mem_range, Bool.not_and, Bool.or_eq_true, Bool.not_eq_true',
    decide_eq_false_iff_not]
  constructor
  · rintro ⟨⟨h1, h2⟩, h3, h4⟩
    exact ⟨h1, h3, h2, fun k hk hkj => (h4 k hkj).resolve_left (by omega)⟩
  · rintro ⟨h1, h2, h3, h4⟩
    exact ⟨⟨h1, h3⟩, h2, fun k hkj => by
      by_cases hk : start ≤ k
      · exact .inr (h4 k hk hkj)
      · exact .inl hk⟩

/-- `nextSet` finds nothing exactly when no bit at or above `start` is set. -/
theorem nextSet_eq_none_iff (w : Word) (start : Nat) :
    nextSet w start = none ↔ ∀ j, start ≤ j → j < 32 → w.getLsbD j = false := by
  unfold nextSet
  rw [List.find?_range_eq_none]
  simp only [Bool.not_and, Bool.or_eq_true, Bool.not_eq_true', decide_eq_false_iff_not]
  exact ⟨fun h j h1 h2 => (h j h2).resolve_left (by omega), fun h j h2 => by
    by_cases h1 : start ≤ j
    · exact .inr (h j h1 h2)
    · exact .inl h1⟩

/-- `ctz16` of 0 is undefined (R9). -/
theorem ctz16_zero : ctz16 0 = none := by decide

/-- `ctz16` finds the lowest set bit. -/
theorem ctz16_eq_some (m : BitVec 16) (n : EpNum) (hn : m.getLsbD n.toNat = true)
    (hlow : ∀ k, k < n.toNat → m.getLsbD k = false) : ctz16 m = some n := by
  have hf : (List.range 16).find? (fun j => m.getLsbD j) = some n.toNat := by
    rw [List.find?_range_eq_some]
    exact ⟨hn, List.mem_range.mpr (by have := n.isLt; omega), fun j hj => by simp [hlow j hj]⟩
  simp [ctz16, hf]

/-- `nextEvent` finds the first inspected set bit at or after place `start`. -/
theorem nextEvent_eq_some_iff (p : Params) (n : EpNum) (evs : List Field) (w : Word) (start k : Nat) :
    p.nextEvent n evs w start = some k ↔
      start ≤ k ∧ (∃ f, evs[k]? = some f ∧ w.getLsbD (p.lo f n) = true) ∧
      ∀ m f, start ≤ m → m < k → evs[m]? = some f → w.getLsbD (p.lo f n) = false := by
  unfold Params.nextEvent
  rw [List.find?_range_eq_some]
  simp only [Bool.and_eq_true, decide_eq_true_eq, List.mem_range, Bool.not_and, Bool.or_eq_true, Bool.not_eq_true',
    decide_eq_false_iff_not]
  constructor
  · rintro ⟨⟨h1, h2⟩, h3, h4⟩
    refine ⟨h1, ⟨evs[k], by simp [h3], by simpa [h3] using h2⟩, fun m f hm hmk hf => ?_⟩
    have := (h4 m hmk).resolve_left (by omega)
    simpa [hf] using this
  · rintro ⟨h1, ⟨f, hf, hw⟩, h4⟩
    have hk : k < evs.length := (List.getElem?_eq_some_iff.mp hf).1
    refine ⟨⟨h1, by simp [hf, hw]⟩, hk, fun m hmk => ?_⟩
    by_cases hm : start ≤ m
    · right
      have : m < evs.length := by omega
      have := h4 m evs[m] hm hmk (by simp [this])
      simp [*]
    · exact .inl hm

/-- `nextEvent` finds nothing exactly when no inspected bit at or after place `start` is set. -/
theorem nextEvent_eq_none_iff (p : Params) (n : EpNum) (evs : List Field) (w : Word) (start : Nat) :
    p.nextEvent n evs w start = none ↔
      ∀ k f, start ≤ k → evs[k]? = some f → w.getLsbD (p.lo f n) = false := by
  unfold Params.nextEvent
  rw [List.find?_range_eq_none]
  simp only [Bool.not_and, Bool.or_eq_true, Bool.not_eq_true', decide_eq_false_iff_not]
  constructor
  · intro h k f hk hf
    have hl : k < evs.length := (List.getElem?_eq_some_iff.mp hf).1
    simpa [hf] using (h k hl).resolve_left (by omega)
  · intro h k hl
    by_cases hk : start ≤ k
    · right; simpa [hl] using h k evs[k] hk (by simp [hl])
    · exact .inl hk

/-- A one-hot word has one bit. -/
theorem oneHot_getLsbD (i j : Nat) (hi : i < 32) : (oneHot i).getLsbD j = decide (j = i) := by
  by_cases h : j = i
  · subst h; simp [oneHot, hi]
  · simp only [oneHot, BitVec.getLsbD_shiftLeft, h, decide_false]
    by_cases h1 : j < i
    · simp [h1]
    · have : j - i ≠ 0 := by omega
      simp [BitVec.getLsbD_one, this]

/-- A bit of a placed value. -/
theorem Params.place_getLsbD (p : Params) (f : Field) {n : Nat} (v : BitVec n) (j : Nat) :
    (p.place f v).getLsbD j = (decide (j < 32) && decide (p.lo f ≤ j) && v.getLsbD (j - p.lo f)) := by
  simp only [Params.place, BitVec.getLsbD_shiftLeft, BitVec.getLsbD_setWidth]
  by_cases h : p.lo f ≤ j
  · by_cases h2 : j < 32
    · have : j - p.lo f < 32 := by omega
      simp [h, h2, this]
    · simp [h2]
  · have : j < p.lo f := by omega
    simp [h, this]

/-- A bit of an extracted value. -/
theorem Params.extract_getLsbD (p : Params) (f : Field) (n : Nat) (w : Word) (j : Nat) :
    (p.extract f n w).getLsbD j = (decide (j < n) && w.getLsbD (p.lo f + j)) := by
  simp [Params.extract, BitVec.getLsbD_extractLsb']

/-- A bit of a value cut to `n` bits. -/
theorem truncTo_getLsbD (n : Nat) (v : Word) (j : Nat) : (truncTo n v).getLsbD j = (decide (j < n) && v.getLsbD j) := by
  simp only [truncTo, BitVec.getLsbD_setWidth]
  by_cases h : j < 32
  · simp [h]
  · simp [h, BitVec.getLsbD_of_ge v j (by omega)]

/-- A value cut to `n` bits is below `2 ^ n`. -/
theorem truncTo_lt (n : Nat) (v : Word) : (truncTo n v).toNat < 2 ^ n := by
  simp only [truncTo, BitVec.toNat_setWidth]
  exact Nat.lt_of_le_of_lt (Nat.mod_le _ _) (Nat.mod_lt _ (Nat.two_pow_pos n))

/-- A value below `2 ^ n` is not cut. -/
theorem truncTo_of_lt (n : Nat) (v : Word) (h : v.toNat < 2 ^ n) : truncTo n v = v := by
  apply BitVec.eq_of_toNat_eq
  simp only [truncTo, BitVec.toNat_setWidth, Nat.mod_eq_of_lt h]
  exact Nat.mod_eq_of_lt v.isLt

/-- A bit of the value of a field (R67). -/
theorem Params.fieldOf_getLsbD (p : Params) (f : Field) (w : Word) (n : EpNum) (j : Nat) :
    (p.fieldOf f w n).getLsbD j = (decide (j < p.width f n) && w.getLsbD (p.lo f n + j)) := by
  simp [Params.fieldOf, truncTo_getLsbD]

/-- The value of a field is a value of its width. -/
theorem Params.fieldOf_lt (p : Params) (f : Field) (w : Word) (n : EpNum) : (p.fieldOf f w n).toNat < 2 ^ p.width f n :=
  truncTo_lt _ _

/-- The width that R35 gives a field is its width under every binding. -/
theorem Params.width_fixed (p : Params) (f : Field) (n : EpNum) (w : Nat) (h : f.width = some w) : p.width f n = w := by
  simp [Params.width, h]

/-! The width of each field that R35 fixes, under every binding. -/

@[simp] theorem Params.width_bSessionValid (p : Params) (n : EpNum) : p.width .bSessionValid n = 1 := rfl
@[simp] theorem Params.width_globalIntEnable (p : Params) (n : EpNum) : p.width .globalIntEnable n = 1 := rfl
@[simp] theorem Params.width_turnaround (p : Params) (n : EpNum) : p.width .turnaround n = 4 := rfl
@[simp] theorem Params.width_ahbIdle (p : Params) (n : EpNum) : p.width .ahbIdle n = 1 := rfl
@[simp] theorem Params.width_txfFlush (p : Params) (n : EpNum) : p.width .txfFlush n = 1 := rfl
@[simp] theorem Params.width_rxfFlush (p : Params) (n : EpNum) : p.width .rxfFlush n = 1 := rfl
@[simp] theorem Params.width_txfNum (p : Params) (n : EpNum) : p.width .txfNum n = 5 := rfl
@[simp] theorem Params.width_mmis (p : Params) (n : EpNum) : p.width .mmis n = 1 := rfl
@[simp] theorem Params.width_rxflvl (p : Params) (n : EpNum) : p.width .rxflvl n = 1 := rfl
@[simp] theorem Params.width_usbrst (p : Params) (n : EpNum) : p.width .usbrst n = 1 := rfl
@[simp] theorem Params.width_enumdne (p : Params) (n : EpNum) : p.width .enumdne n = 1 := rfl
@[simp] theorem Params.width_iepint (p : Params) (n : EpNum) : p.width .iepint n = 1 := rfl
@[simp] theorem Params.width_oepint (p : Params) (n : EpNum) : p.width .oepint n = 1 := rfl
@[simp] theorem Params.width_srqint (p : Params) (n : EpNum) : p.width .srqint n = 1 := rfl
@[simp] theorem Params.width_vbusSensing (p : Params) (n : EpNum) : p.width .vbusSensing n = 1 := rfl
@[simp] theorem Params.width_devAddr (p : Params) (n : EpNum) : p.width .devAddr n = 7 := rfl
@[simp] theorem Params.width_softDisconnect (p : Params) (n : EpNum) : p.width .softDisconnect n = 1 := rfl
@[simp] theorem Params.width_clearGlobalInNak (p : Params) (n : EpNum) : p.width .clearGlobalInNak n = 1 := rfl
@[simp] theorem Params.width_enumSpeed (p : Params) (n : EpNum) : p.width .enumSpeed n = 2 := rfl
@[simp] theorem Params.width_inPending (p : Params) (n : EpNum) : p.width .inPending n = 16 := rfl
@[simp] theorem Params.width_outPending (p : Params) (n : EpNum) : p.width .outPending n = 16 := rfl
@[simp] theorem Params.width_in0 (p : Params) (n : EpNum) : p.width .in0 n = 1 := rfl
@[simp] theorem Params.width_out0 (p : Params) (n : EpNum) : p.width .out0 n = 1 := rfl
@[simp] theorem Params.width_inMpsiz (p : Params) (n : EpNum) : p.width .inMpsiz n = 2 := rfl
@[simp] theorem Params.width_inActive (p : Params) (n : EpNum) : p.width .inActive n = 1 := rfl
@[simp] theorem Params.width_inStall (p : Params) (n : EpNum) : p.width .inStall n = 1 := rfl
@[simp] theorem Params.width_inCnak (p : Params) (n : EpNum) : p.width .inCnak n = 1 := rfl
@[simp] theorem Params.width_inEpena (p : Params) (n : EpNum) : p.width .inEpena n = 1 := rfl
@[simp] theorem Params.width_inPktcnt (p : Params) (n : EpNum) : p.width .inPktcnt n = 2 := rfl
@[simp] theorem Params.width_inXfrsiz (p : Params) (n : EpNum) : p.width .inXfrsiz n = 7 := rfl
@[simp] theorem Params.width_spaceAvail (p : Params) (n : EpNum) : p.width .spaceAvail n = 16 := rfl
@[simp] theorem Params.width_inXfrc (p : Params) (n : EpNum) : p.width .inXfrc n = 1 := rfl
@[simp] theorem Params.width_inEpdisd (p : Params) (n : EpNum) : p.width .inEpdisd n = 1 := rfl
@[simp] theorem Params.width_inNak (p : Params) (n : EpNum) : p.width .inNak n = 1 := rfl
@[simp] theorem Params.width_outStall (p : Params) (n : EpNum) : p.width .outStall n = 1 := rfl
@[simp] theorem Params.width_outCnak (p : Params) (n : EpNum) : p.width .outCnak n = 1 := rfl
@[simp] theorem Params.width_outEpena (p : Params) (n : EpNum) : p.width .outEpena n = 1 := rfl
@[simp] theorem Params.width_outStupcnt (p : Params) (n : EpNum) : p.width .outStupcnt n = 2 := rfl
@[simp] theorem Params.width_outPktcnt (p : Params) (n : EpNum) : p.width .outPktcnt n = 1 := rfl
@[simp] theorem Params.width_outXfrsiz (p : Params) (n : EpNum) : p.width .outXfrsiz n = 7 := rfl
@[simp] theorem Params.width_outXfrc (p : Params) (n : EpNum) : p.width .outXfrc n = 1 := rfl
@[simp] theorem Params.width_outEpdisd (p : Params) (n : EpNum) : p.width .outEpdisd n = 1 := rfl
@[simp] theorem Params.width_outStup (p : Params) (n : EpNum) : p.width .outStup n = 1 := rfl
@[simp] theorem Params.width_outOtepdis (p : Params) (n : EpNum) : p.width .outOtepdis n = 1 := rfl
@[simp] theorem Params.width_outNak (p : Params) (n : EpNum) : p.width .outNak n = 1 := rfl

@[simp] theorem Reg.glob_n (r : RegName) : (Reg.glob r).n = 0#4 := rfl

@[simp] theorem Reg.glob_name (r : RegName) : (Reg.glob r).name = r := rfl

/-- What a pairwise test over a list says. -/
theorem allPairs_iff {α : Type} (q : α → α → Bool) (l : List α) :
    allPairs q l = true ↔ l.Pairwise (fun a b => q a b = true) := by
  induction l with
  | nil => simp [allPairs]
  | cons a l ih => simp [allPairs, ih, List.pairwise_cons]

end Sys2Proof
end

