-- ==== Sys2Proof/Laws/Params.lean ====
section
/-! SUPPORT. What a configuration the model accepts has (R8): fields inside the word and apart from each other, codes different
from each other, one handler for each handled bit. -/

namespace Sys2Proof

theorem Params.wf_iff (p : Params) :
    p.wf = true ↔
      p.fieldsOk = true ∧ p.codesOk = true ∧ p.offsetsOk = true ∧ p.descOk = true ∧ p.writesOk = true := by
  simp [Params.wf, and_assoc]

/-! ## The endpoint numbers that are looked at stand for all -/

/-- A register that R35 names is in the list. -/
theorem RegName.mem_all (r : RegName) (h : ∀ k, r ≠ .other k) : r ∈ RegName.all := by
  cases r with
  | other k => exact absurd rfl (h k)
  | _ => decide

/-- A row of an endpoint number that no row names holds for every number. -/
theorem Params.ep_all_of_not_own (p : Params) (ep : Option EpNum) (he : ∀ m, ep = some m → m ∈ p.ownEps) (n : EpNum)
    (hn : n ∉ p.ownEps) : ep.all (· == n) = ep.isNone := by
  cases ep with
  | none => rfl
  | some m =>
    have : m ≠ n := fun h => hn (h ▸ he m rfl)
    simp [this]

theorem Params.mem_ownEps_field (p : Params) (row : FieldRow) (h : row ∈ p.fields) (m : EpNum) (hm : row.ep = some m) :
    m ∈ p.ownEps :=
  List.mem_append_left _ (List.mem_filterMap.mpr ⟨row, h, hm⟩)

theorem Params.mem_ownEps_reg (p : Params) (row : RegRow) (h : row ∈ p.regs) (m : EpNum) (hm : row.ep = some m) :
    m ∈ p.ownEps :=
  List.mem_append_right _ (List.mem_filterMap.mpr ⟨row, h, hm⟩)

/-- Two searches that agree on the members of the list find the same. -/
theorem find?_congr_mem {α : Type} (l : List α) (q r : α → Bool) (h : ∀ a ∈ l, q a = r a) : l.find? q = l.find? r := by
  induction l with
  | nil => rfl
  | cons a l ih =>
    have ha := h a (List.mem_cons_self ..)
    have ih := ih (fun b hb => h b (List.mem_cons_of_mem _ hb))
    simp [List.find?_cons, ha, ih]

/-- Endpoint numbers that no row names have the same rows. -/
theorem Params.rows_congr (p : Params) (m n : EpNum) (hm : m ∉ p.ownEps) (hn : n ∉ p.ownEps) :
    (∀ f, p.fieldRow f m = p.fieldRow f n) ∧ (∀ r, p.regRow ⟨r, m⟩ = p.regRow ⟨r, n⟩) ∧
      ∀ r, p.fields.filterMap (FieldRow.otherOf ⟨r, m⟩) = p.fields.filterMap (FieldRow.otherOf ⟨r, n⟩) := by
  have hf : ∀ row ∈ p.fields, row.ep.all (· == m) = row.ep.all (· == n) := fun row h => by
    rw [p.ep_all_of_not_own _ (p.mem_ownEps_field row h) m hm, p.ep_all_of_not_own _ (p.mem_ownEps_field row h) n hn]
  refine ⟨fun f => find?_congr_mem _ _ _ fun row h => by simp [hf row h],
    fun r => find?_congr_mem _ _ _ fun row h => ?_, fun r => List.filterMap_congr fun row h => ?_⟩
  · simp only
    rw [p.ep_all_of_not_own _ (p.mem_ownEps_reg row h) m hm, p.ep_all_of_not_own _ (p.mem_ownEps_reg row h) n hn]
  · unfold FieldRow.otherOf
    split <;> simp [hf row h]

/-- For every endpoint number there is one that is looked at and has the same rows, and that is 0 only if the number is 0 or no
field is asked for at 0 alone. -/
theorem Params.rep (p : Params) (n : EpNum) :
    ∃ m ∈ p.epReps, m = n ∨ (m ∉ p.ownEps ∧ n ∉ p.ownEps ∧ (m ≠ 0#4 → n ≠ 0#4)) := by
  by_cases hn : n ∈ p.ownEps
  · exact ⟨n, List.mem_append_left _ hn, .inl rfl⟩
  · have hmem : ∀ k : EpNum, k ∈ (List.range 16).map (BitVec.ofNat 4) := fun k =>
      List.mem_map.mpr ⟨k.toNat, List.mem_range.mpr k.isLt, by simp⟩
    cases hx : ((List.range 16).map (BitVec.ofNat 4)).find? (fun k => !p.ownEps.contains k) with
    | none => have := List.find?_eq_none.mp hx n (hmem n); simp [hn] at this
    | some m =>
      have hm : m ∉ p.ownEps := by simpa using List.find?_some hx
      refine ⟨m, List.mem_append_right _ (by rw [hx]; exact List.mem_singleton.mpr rfl), .inr ⟨hm, hn, fun h0 hn0 => ?_⟩⟩
      have h0' : (0#4) ∉ p.ownEps := hn0 ▸ hn
      have : ((List.range 16).map (BitVec.ofNat 4)).find? (fun k => !p.ownEps.contains k) = some 0#4 := by
        rw [show (List.range 16).map (BitVec.ofNat 4) = 0#4 :: (List.range' 1 15).map (BitVec.ofNat 4) from by decide]
        simp [h0']
      rw [hx] at this
      exact h0 (Option.some.inj this)

/-- A register that has a field is named by R35, or the binding gives it one. -/
theorem Params.name_mem (p : Params) (r : Reg) (f : Field) (hf : f ∈ p.fieldsOf r) :
    r.name ∈ RegName.all ++ p.otherNames := by
  unfold Params.fieldsOf at hf
  split at hf
  · rcases List.mem_append.mp hf with h | h
    · refine List.mem_append_left _ (RegName.mem_all _ fun k hk => ?_)
      rw [hk] at h
      exact absurd (List.mem_filter.mp h).1 (by simp [RegName.fields])
    · obtain ⟨row, hrow, ho⟩ := List.mem_filterMap.mp (List.mem_dedup.mp h)
      refine List.mem_append_right _ (List.mem_filterMap.mpr ⟨row, hrow, ?_⟩)
      unfold FieldRow.otherOf at ho
      split at ho
      · next q k i he =>
        split at ho
        · next hq =>
          simp only [Bool.and_eq_true, decide_eq_true_eq] at hq
          exact congrArg some hq.1
        · cases ho
      · cases ho
  · cases hf

/-- Two different members of a pairwise list are related in one of the two orders. -/
theorem pairwise_either {α : Type} {R : α → α → Prop} {l : List α} (h : l.Pairwise R) {a b : α} (ha : a ∈ l)
    (hb : b ∈ l) (hab : a ≠ b) : R a b ∨ R b a := by
  induction l with
  | nil => cases ha
  | cons c l ih =>
    rw [List.pairwise_cons] at h
    rcases List.mem_cons.mp ha with ha | ha <;> rcases List.mem_cons.mp hb with hb | hb
    · exact absurd (ha.trans hb.symm) hab
    · exact .inl (ha ▸ h.1 b hb)
    · exact .inr (hb ▸ h.1 a ha)
    · exact ih h.2 ha hb

/-- A field of a register is a field at the endpoint number that is looked at for it, and has the same row there. -/
theorem Params.fieldsOf_rep (p : Params) (name : RegName) (hp : name.perEndpoint = true) (m n : EpNum)
    (h : m = n ∨ (m ∉ p.ownEps ∧ n ∉ p.ownEps ∧ (m ≠ 0#4 → n ≠ 0#4))) (f : Field) :
    (f ∈ p.fieldsOf ⟨name, n⟩ → f ∈ p.fieldsOf ⟨name, m⟩) ∧ p.fieldRow f m = p.fieldRow f n := by
  rcases h with rfl | ⟨hm, hn, h0⟩
  · exact ⟨id, rfl⟩
  · obtain ⟨h1, -, h3⟩ := p.rows_congr m n hm hn
    refine ⟨fun hf => ?_, h1 f⟩
    simp only [Params.fieldsOf, Reg.legal, hp, Bool.true_or, if_true, List.mem_append, List.mem_filter, h3] at hf ⊢
    refine hf.imp_left fun ⟨ha, hb⟩ => ⟨ha, ?_⟩
    by_cases hz : m = 0#4
    · simp [hz]
    · simpa [h0 hz, hz] using hb

/-- What a condition on a register at the endpoint numbers that are looked at says of every endpoint number. -/
theorem Params.atReps_iff (p : Params) (q : Reg → Bool) (r : Reg) (hl : r.legal = true) (h : p.atReps q r.name = true) :
    ∃ m, q ⟨r.name, m⟩ = true ∧
      (m = r.n ∨ (r.name.perEndpoint = true ∧ m ∉ p.ownEps ∧ r.n ∉ p.ownEps ∧ (m ≠ 0#4 → r.n ≠ 0#4))) := by
  unfold Params.atReps at h
  split at h
  · next hp =>
    obtain ⟨m, hm, hr⟩ := p.rep r.n
    exact ⟨m, List.all_eq_true.mp h m hm, hr.imp_right fun hr => ⟨hp, hr⟩⟩
  · next hp =>
    have hz : r.n = 0 := by simpa [Reg.legal, hp] using hl
    exact ⟨0, h, .inl hz.symm⟩

/-- Every field of a register has a row with its width, inside the word, and lies apart from every other field (R8 (a), (b),
(f)), under a configuration the model accepts. -/
theorem Params.fieldsOf_ok (p : Params) (h : p.wf = true) (r : Reg) (f : Field) (hf : f ∈ p.fieldsOf r) :
    p.fieldOk r.n f = true ∧
      ∀ g ∈ p.fieldsOf r, f ≠ g → p.disjoint r.n f g = true ∨ p.disjoint r.n g f = true := by
  have hl : r.legal = true := by
    by_contra hc; simp [Params.fieldsOf, hc] at hf
  have h1 := ((Params.wf_iff p).mp h).1
  simp only [Params.fieldsOk, List.all_eq_true] at h1
  obtain ⟨m, hq, hm⟩ := p.atReps_iff _ r hl (h1 _ (p.name_mem r f hf))
  simp only [Bool.and_eq_true, List.all_eq_true, allPairs_iff] at hq
  have key : ∀ g, (g ∈ p.fieldsOf r → g ∈ p.fieldsOf ⟨r.name, m⟩) ∧ p.fieldRow g m = p.fieldRow g r.n := fun g => by
    rcases hm with rfl | ⟨hp, hm⟩
    · exact ⟨id, rfl⟩
    · exact p.fieldsOf_rep r.name hp m r.n (.inr hm) g
  have hlo : ∀ g, p.lo g m = p.lo g r.n := fun g => by simp [Params.lo, (key g).2]
  have hw : ∀ g, p.width g m = p.width g r.n := fun g => by simp [Params.width, Params.rowWidth, (key g).2]
  refine ⟨?_, fun g hg hfg => ?_⟩
  · have := hq.1 f ((key f).1 hf)
    simpa [Params.fieldOk, (key f).2] using this
  · have := pairwise_either hq.2 ((key f).1 hf) ((key g).1 hg) hfg
    simpa [Params.disjoint, hlo, hw] using this

/-- The width of a bound field is the width of its row. -/
theorem Params.fieldOk_iff (p : Params) (n : EpNum) (f : Field) :
    p.fieldOk n f = true ↔ (p.fieldRow f n).isSome = true ∧ p.rowWidth f n = p.width f n ∧
      (f.width = none → 0 < p.rowWidth f n) ∧ p.lo f n + p.width f n ≤ 32 := by
  unfold Params.fieldOk Params.width Params.rowWidth Params.lo
  cases p.fieldRow f n with
  | none => simp
  | some row =>
    cases hw : f.width with
    | none => simp
    | some w =>
      simp only [Bool.and_eq_true, beq_iff_eq, decide_eq_true_eq, Option.isSome_some, true_and, reduceCtorEq, false_implies]
      constructor
      · rintro ⟨rfl, h⟩; exact ⟨rfl, h⟩
      · rintro ⟨rfl, h⟩; exact ⟨rfl, h⟩

/-- A field of a register lies inside the word (R8). -/
theorem Params.lo_add_width (p : Params) (h : p.wf = true) (r : Reg) (f : Field) (hf : f ∈ p.fieldsOf r) :
    p.lo f r.n + p.width f r.n ≤ 32 :=
  ((p.fieldOk_iff _ _).mp (p.fieldsOf_ok h r f hf).1).2.2.2

/-- Two different fields of a register do not overlap (R8 (a), (b), (f)). -/
theorem Params.fields_apart (p : Params) (h : p.wf = true) (r : Reg) (f g : Field) (hf : f ∈ p.fieldsOf r)
    (hg : g ∈ p.fieldsOf r) (hfg : f ≠ g) :
    p.lo f r.n + p.width f r.n ≤ p.lo g r.n ∨ p.lo g r.n + p.width g r.n ≤ p.lo f r.n := by
  have := (p.fieldsOf_ok h r f hf).2 g hg hfg
  simp only [Params.disjoint, Bool.or_eq_true, decide_eq_true_eq] at this
  omega

/-- A field that R35 names for the register is a field of it under every binding. -/
theorem Params.mem_fieldsOf (p : Params) (r : Reg) (f : Field) (hl : r.legal = true) (hf : f ∈ r.name.fields)
    (h0 : r.n = 0#4 ∨ f.ofEp0 = false) : f ∈ p.fieldsOf r := by
  simp only [Params.fieldsOf, hl, if_true]
  refine List.mem_append_left _ (List.mem_filter.mpr ⟨hf, ?_⟩)
  rcases h0 with h0 | h0 <;> simp [h0]

/-- Every register that R35 names is bound, under a configuration the model accepts (R7, R65). -/
theorem Params.reg_bound (p : Params) (h : p.wf = true) (r : Reg) (hl : r.legal = true) (hn : ∀ k, r.name ≠ .other k) :
    (p.regRow r).isSome = true := by
  have h1 := ((Params.wf_iff p).mp h).2.2.1
  simp only [Params.offsetsOk, Bool.and_eq_true, List.all_eq_true] at h1
  obtain ⟨m, hq, hm⟩ := p.atReps_iff _ r hl (h1.2 _ (RegName.mem_all _ hn))
  simp only [Params.bindsReg, Bool.and_eq_true] at hq
  rcases hm with rfl | ⟨-, hm, hn, -⟩
  · exact hq.2
  · rw [← (p.rows_congr m r.n hm hn).2.1 r.name]; exact hq.2

/-- The address bits of a binding are those of whole words (R65). -/
theorem Params.row_aligned (p : Params) (h : p.wf = true) :
    p.base.toNat % 4 = 0 ∧ ∀ row ∈ p.regs, row.offset % 4 = 0 ∧ row.stride % 4 = 0 := by
  have h1 := ((Params.wf_iff p).mp h).2.2.1
  simp only [Params.offsetsOk, Bool.and_eq_true, List.all_eq_true, beq_iff_eq] at h1
  exact h1.1

/-- The entries of the three lists of writes name registers and fields that the binding gives (R66). -/
theorem Params.entry_ok (p : Params) (h : p.wf = true) (e : CfgWrite)
    (he : e ∈ p.initWrites ++ p.resetMaskWrites ++ p.enumUnmaskWrites) : p.entryOk e = true := by
  have h1 := ((Params.wf_iff p).mp h).2.2.2.2
  simp only [Params.writesOk, Bool.and_eq_true, List.all_eq_true] at h1
  simp only [List.mem_append] at he
  rcases he with (he | he) | he
  exacts [h1.1.1 e he, h1.1.2 e he, h1.2 e he]

/-- The codes of the status kinds are values of that field (R8 (c)). -/
theorem Params.rxk_lt (p : Params) (h : p.wf = true) (c : Word) (hc : c ∈ p.rxkCodes) :
    c.toNat < 2 ^ p.width .rxStatusKind := by
  have h1 := ((Params.wf_iff p).mp h).2.1
  simp only [Params.codesOk, Bool.and_eq_true, List.all_eq_true, decide_eq_true_eq] at h1
  exact h1.1.1.1 c hc

/-- The codes of each kind are different (R8 (c), (d), (e)). -/
theorem Params.codes_nodup (p : Params) (h : p.wf = true) :
    p.rxkCodes.Nodup ∧ p.reqCodes.Nodup ∧ p.dtCodes.Nodup := by
  have h1 := ((Params.wf_iff p).mp h).2.1
  simp only [Params.codesOk, Bool.and_eq_true, allPairs_iff, bne_iff_ne] at h1
  exact ⟨h1.1.1.2, h1.1.2, h1.2⟩

/-- Every descriptor fits the transmit buffer (R222 (a)). -/
theorem Params.desc_length (p : Params) (h : p.wf = true) (t i : Byte) (bytes : List Byte)
    (hd : p.descLookup t i = some bytes) : bytes.length ≤ txbufCap := by
  have h1 := ((Params.wf_iff p).mp h).2.2.2.1
  simp only [Params.descOk, List.all_eq_true, decide_eq_true_eq] at h1
  unfold Params.descLookup at hd
  split at hd
  · next e he => cases hd; exact h1 e (List.mem_of_find?_eq_some he)
  · cases hd

/-- The handler of the position of a handled event is that event's (R182). -/
theorem Params.handlerAt_lo (p : Params) (h : p.wf = true) (f : Field) (hf : f ∈ gintFields) :
    p.handlerAt (p.lo f) = some f := by
  have hin : ∀ g ∈ gintFields, g ≠ f → p.lo g ≠ p.lo f := by
    intro g hg hne heq
    have hw : ∀ k ∈ gintFields, p.width k = 1 := by
      simp [gintFields]
    have hr : ∀ k ∈ gintFields, k ∈ p.fieldsOf (.glob .intSts) := fun k hk => p.mem_fieldsOf _ k rfl hk (.inl rfl)
    have := Params.fields_apart p h (.glob .intSts) g f (hr g hg) (hr f hf) hne
    simp only [Reg.glob_n, hw g hg, hw f hf] at this
    omega
  unfold Params.handlerAt
  cases hx : gintFields.find? (fun k => p.lo k == p.lo f) with
  | none => have := List.find?_eq_none.mp hx f hf; simp at this
  | some g =>
    by_contra hne
    have hg := List.mem_of_find?_eq_some hx
    have := List.find?_some hx
    exact hin g hg (fun he => hne (by rw [he])) (by simpa using this)

/-- What a handler is bound to. -/
theorem Params.handlerAt_some (p : Params) (j : Nat) (f : Field) (h : p.handlerAt j = some f) :
    f ∈ gintFields ∧ p.lo f = j :=
  ⟨List.mem_of_find?_eq_some h, by simpa using List.find?_some h⟩

end Sys2Proof
end

