-- ==== Sys2Proof/Laws/Bus.lean ====
section
/-! SUPPORT. What the word level of a grouped field write leaves in each bit (R66, R352). -/

namespace Sys2Proof.Machine

/-- A bit of the mask of a field. -/
theorem fieldMask_getLsbD (p : Params) (n : EpNum) (f : Field) (i : Nat) (hi : i < 32) :
    (fieldMask p n f).getLsbD i = decide (p.lo f n ≤ i ∧ i < p.lo f n + p.width f n) := by
  simp only [fieldMask, BitVec.getLsbD_shiftLeft, truncTo_getLsbD, BitVec.getLsbD_allOnes, hi, decide_true, Bool.true_and]
  by_cases h1 : p.lo f n ≤ i
  · have h3 : i - p.lo f n < 32 := by omega
    have h4 : ¬ i < p.lo f n := by omega
    by_cases h2 : i < p.lo f n + p.width f n
    · have : i - p.lo f n < p.width f n := by omega
      simp [h1, h2, h3, h4, this]
    · have : ¬ i - p.lo f n < p.width f n := by omega
      simp [h2, this]
  · have h4 : i < p.lo f n := by omega
    simp [h1, h4]

/-- One merged field: its bits are the value's, every other bit is as before (R66). -/
theorem mergeField_getLsbD (p : Params) (n : EpNum) (w v : Word) (f : Field) (i : Nat) (hi : i < 32) :
    (mergeField p n w (f, v)).getLsbD i =
      if p.lo f n ≤ i ∧ i < p.lo f n + p.width f n then v.getLsbD (i - p.lo f n) else w.getLsbD i := by
  simp only [mergeField, BitVec.getLsbD_or, BitVec.getLsbD_and, BitVec.getLsbD_not, fieldMask_getLsbD p n f i hi,
    BitVec.getLsbD_shiftLeft, truncTo_getLsbD, hi, decide_true, Bool.true_and]
  by_cases h : p.lo f n ≤ i ∧ i < p.lo f n + p.width f n
  · have h1 : i - p.lo f n < p.width f n := by omega
    have h2 : ¬ i < p.lo f n := by omega
    simp [h, h1, h2]
  · by_cases h2 : i < p.lo f n
    · simp [h, h2]
    · have h1 : ¬ i - p.lo f n < p.width f n := by omega
      simp [h, h1]

/-- Clearing the fields of a list clears their bits and leaves the others. -/
theorem clearFields_getLsbD (p : Params) (n : EpNum) (i : Nat) (hi : i < 32) (fs : List Field) (w : Word) :
    (fs.foldl (fun w f => w &&& ~~~ fieldMask p n f) w).getLsbD i =
      (w.getLsbD i && !fs.any (fun f => decide (p.lo f n ≤ i ∧ i < p.lo f n + p.width f n))) := by
  induction fs generalizing w with
  | nil => simp
  | cons f fs ih =>
    rw [List.foldl_cons, ih, BitVec.getLsbD_and, BitVec.getLsbD_not, fieldMask_getLsbD p n f i hi, List.any_cons,
      Bool.not_or, Bool.and_assoc]
    simp [hi]

/-- The word that a grouped field write starts from: 0 in a register whose every bit is an action, otherwise the word read
without the bits of its `command` and `w1c` fields (R352). -/
theorem clearActions_getLsbD (p : Params) (r : Reg) (old : Word) (i : Nat) (hi : i < 32) :
    (clearActions p r old).getLsbD i =
      (!r.name.wordKind.any FieldKind.actsOnOne && (old.getLsbD i &&
        !((p.fieldsOf r).filter (fun f => f.kind.actsOnOne)).any
          (fun f => decide (p.lo f r.n ≤ i ∧ i < p.lo f r.n + p.width f r.n)))) := by
  unfold clearActions
  split
  · next h => simp [h]
  · next h => rw [clearFields_getLsbD p r.n i hi]; simp [h]

end Sys2Proof.Machine
end

