-- ==== Sys2Proof/Laws/Encoding.lean ====
section
/-! SUPPORT. What the decoders' searches and field extractions read back from an encoded word. -/

namespace Sys2Proof

/-- The dispatcher finds the bit of a one-hot word. -/
theorem nextSet_oneHot (j : Nat) (hj : j < 32) : nextSet (oneHot j) 0 = some j := by
  rw [nextSet_eq_some_iff]
  refine ⟨Nat.zero_le _, hj, by simp [oneHot_getLsbD _ _ hj], fun k _ hk => ?_⟩
  rw [oneHot_getLsbD _ _ hj]
  simp; omega

/-- An event decoder finds the place of a one-hot word of the event register `r`. -/
theorem nextEvent_ackWord (p : Params) (h : p.wf = true) (r : Reg) (evs : List Field) (he : ∀ f ∈ evs, f ∈ p.fieldsOf r)
    (hw : ∀ f ∈ evs, f.width = some 1) (hnd : evs.Nodup) (k : Nat) (f : Field) (hk : evs[k]? = some f) :
    p.nextEvent r.n evs (p.ackWord f r.n) 0 = some k := by
  have hf : f ∈ evs := List.mem_of_getElem? hk
  have hw : ∀ g ∈ evs, p.width g r.n = 1 := fun g hg => p.width_fixed g r.n 1 (hw g hg)
  have hl := Params.lo_add_width p h r f (he f hf)
  rw [hw f hf] at hl
  rw [nextEvent_eq_some_iff]
  refine ⟨Nat.zero_le _, ⟨f, hk, ?_⟩, ?_⟩
  · simp [Params.ackWord, oneHot_getLsbD _ _ (show p.lo f r.n < 32 by omega)]
  · intro m g _ hm hg
    have hgm : g ∈ evs := List.mem_of_getElem? hg
    have hne : g ≠ f := by
      intro heq
      subst heq
      obtain ⟨a, ha⟩ := List.getElem?_eq_some_iff.mp hg
      obtain ⟨b, hb⟩ := List.getElem?_eq_some_iff.mp hk
      have := (List.Nodup.getElem_inj_iff hnd (hi := a) (hj := b)).mp (ha.trans hb.symm)
      omega
    have := Params.fields_apart p h r g f (he g hgm) (he f hf) hne
    rw [hw f hf, hw g hgm] at this
    simp [Params.ackWord, oneHot_getLsbD _ _ (show p.lo f r.n < 32 by omega)]
    omega

/-- A placed value has no bit outside its field. -/
theorem Params.place_outside (p : Params) {n : Nat} (v : BitVec n) (f : Field) (j : Nat)
    (hj : j < p.lo f ∨ p.lo f + n ≤ j) : (p.place f v).getLsbD j = false := by
  rw [Params.place_getLsbD]
  by_cases hc : p.lo f ≤ j
  · have : v.getLsbD (j - p.lo f) = false := BitVec.getLsbD_of_ge _ _ (by omega)
    simp [this]
  · simp [hc]

/-- A placed value has its own bits inside its field. -/
theorem Params.place_inside (p : Params) {n : Nat} (v : BitVec n) (f : Field) (j : Nat) (hj : p.lo f + j < 32) :
    (p.place f v).getLsbD (p.lo f + j) = v.getLsbD j := by
  rw [Params.place_getLsbD]; simp [hj]

/-- A placed value is read back. -/
theorem Params.extract_place (p : Params) {n : Nat} (f : Field) (v : BitVec n) (h : p.lo f + n ≤ 32) :
    p.extract f n (p.place f v) = v := by
  apply BitVec.eq_of_getLsbD_eq
  intro j hj
  rw [Params.extract_getLsbD, Params.place_inside p v f j (by omega)]
  simp [hj]

/-- A field read from a word to which another field's value is added. -/
theorem Params.extract_or_place (p : Params) {m : Nat} (f g : Field) (n : Nat) (w : Word) (v : BitVec m)
    (h : p.lo f + n ≤ p.lo g ∨ p.lo g + m ≤ p.lo f) : p.extract f n (w ||| p.place g v) = p.extract f n w := by
  apply BitVec.eq_of_getLsbD_eq
  intro j hj
  rw [Params.extract_getLsbD, Params.extract_getLsbD, BitVec.getLsbD_or, Params.place_outside p v g _ (by omega)]
  simp

/-- A value of a field's width, put in place, is read back (R67). -/
theorem Params.fieldOf_place (p : Params) (f : Field) (v : Word) (h : p.lo f + p.width f ≤ 32)
    (hv : v.toNat < 2 ^ p.width f) : p.fieldOf f (p.place f v) = v := by
  apply BitVec.eq_of_getLsbD_eq
  intro j hj
  rw [Params.fieldOf_getLsbD]
  by_cases hw : j < p.width f
  · rw [Params.place_inside p v f j (by omega)]; simp [hw]
  · have : v.getLsbD j = false := by
      rw [BitVec.getLsbD, Nat.testBit_lt_two_pow]
      exact Nat.lt_of_lt_of_le hv (Nat.pow_le_pow_right (by decide) (by omega))
    simp [hw, this]

/-- A placed value has no bit outside its field, where it is a value of the field's width. -/
theorem Params.place_outside_width (p : Params) (f : Field) (v : Word) (hv : v.toNat < 2 ^ p.width f) (j : Nat)
    (hj : j < p.lo f ∨ p.lo f + p.width f ≤ j) : (p.place f v).getLsbD j = false := by
  rw [Params.place_getLsbD]
  by_cases hc : p.lo f ≤ j
  · have : v.getLsbD (j - p.lo f) = false := by
      rw [BitVec.getLsbD, Nat.testBit_lt_two_pow]
      exact Nat.lt_of_lt_of_le hv (Nat.pow_le_pow_right (by decide) (by omega))
    simp [this]
  · simp [hc]

/-- A field read from a word to which the value of a field apart from it is added. -/
theorem Params.fieldOf_or_place (p : Params) (f g : Field) (w v : Word) (hv : v.toNat < 2 ^ p.width g)
    (h : p.lo f + p.width f ≤ p.lo g ∨ p.lo g + p.width g ≤ p.lo f) :
    p.fieldOf f (w ||| p.place g v) = p.fieldOf f w := by
  apply BitVec.eq_of_getLsbD_eq
  intro j hj
  rw [Params.fieldOf_getLsbD, Params.fieldOf_getLsbD]
  by_cases hw : j < p.width f
  · rw [BitVec.getLsbD_or, Params.place_outside_width p g v hv _ (by omega)]; simp
  · simp [hw]

/-- The decoded fields of an encoded setup packet (R112). -/
theorem encodeSetup_views (r vl vh : Byte) (len : BitVec 16) :
    setupRequest (encodeSetup r vl vh len) = r ∧ setupValueHi (encodeSetup r vl vh len) = vh ∧
      setupValueLo (encodeSetup r vl vh len) = vl ∧ setupLength (encodeSetup r vl vh len) = len := by
  refine ⟨?_, ?_, ?_, ?_⟩ <;>
   (apply BitVec.eq_of_getLsbD_eq
    intro j hj
    simp only [setupRequest, setupValueHi, setupValueLo, setupLength, setupByte, encodeSetup, setupOfBytes,
      BitVec.getLsbD_extractLsb', BitVec.getLsbD_append]
    interval_cases j <;> simp)

end Sys2Proof
end

