-- ==== Sys2Proof/Laws/State.lean ====
section
/-! SUPPORT. One lemma per field for each of the three elementary updates of a state (`record`, `goTo`, `answerTaken`), and
the primitives as such updates, so that no later proof unfolds a record update. -/

namespace Sys2Proof.Machine

/-! ## `record` -/
@[simp] theorem State.record_seq (s : State) (r : Record) : (s.record r).seq = s.seq := rfl
@[simp] theorem State.record_cont (s : State) (r : Record) : (s.record r).cont = s.cont := rfl
@[simp] theorem State.record_halted (s : State) (r : Record) : (s.record r).halted = s.halted := rfl
@[simp] theorem State.record_fatalCause (s : State) (r : Record) : (s.record r).fatalCause = s.fatalCause := rfl
@[simp] theorem State.record_txStatus (s : State) (r : Record) : (s.record r).txStatus = s.txStatus := rfl
@[simp] theorem State.record_devState (s : State) (r : Record) : (s.record r).devState = s.devState := rfl
@[simp] theorem State.record_addr (s : State) (r : Record) : (s.record r).addr = s.addr := rfl
@[simp] theorem State.record_setup (s : State) (r : Record) : (s.record r).setup = s.setup := rfl
@[simp] theorem State.record_txbuf (s : State) (r : Record) : (s.record r).txbuf = s.txbuf := rfl
@[simp] theorem State.record_txlen (s : State) (r : Record) : (s.record r).txlen = s.txlen := rfl
@[simp] theorem State.record_speed (s : State) (r : Record) : (s.record r).speed = s.speed := rfl
@[simp] theorem State.record_vbusSense (s : State) (r : Record) : (s.record r).vbusSense = s.vbusSense := rfl
@[simp] theorem State.record_rxw (s : State) (r : Record) : (s.record r).rxw = s.rxw := rfl
@[simp] theorem State.record_snap (s : State) (r : Record) : (s.record r).snap = s.snap := rfl
@[simp] theorem State.record_idx (s : State) (r : Record) : (s.record r).idx = s.idx := rfl
@[simp] theorem State.record_agg (s : State) (r : Record) : (s.record r).agg = s.agg := rfl
@[simp] theorem State.record_epn (s : State) (r : Record) : (s.record r).epn = s.epn := rfl
@[simp] theorem State.record_evt (s : State) (r : Record) : (s.record r).evt = s.evt := rfl
@[simp] theorem State.record_txk (s : State) (r : Record) : (s.record r).txk = s.txk := rfl
@[simp] theorem State.record_par (s : State) (r : Record) : (s.record r).par = s.par := rfl
@[simp] theorem State.record_calls (s : State) (r : Record) : (s.record r).calls = s.calls := rfl
@[simp] theorem State.record_resetIn (s : State) (r : Record) : (s.record r).resetIn = s.resetIn := rfl
@[simp] theorem State.record_answers (s : State) (r : Record) : (s.record r).answers = s.answers := rfl
@[simp] theorem State.record_freeCtr (s : State) (r : Record) : (s.record r).freeCtr = s.freeCtr := rfl
@[simp] theorem State.record_trace (s : State) (r : Record) : (s.record r).trace = s.trace ++ [r] := rfl

/-! ## `goTo` -/

@[simp] theorem State.goTo_seq (s : State) (fs : List Frame) : (s.goTo fs).seq = s.seq := rfl
@[simp] theorem State.goTo_cont (s : State) (fs : List Frame) : (s.goTo fs).cont = fs ++ s.cont := rfl
@[simp] theorem State.goTo_halted (s : State) (fs : List Frame) : (s.goTo fs).halted = s.halted := rfl
@[simp] theorem State.goTo_fatalCause (s : State) (fs : List Frame) : (s.goTo fs).fatalCause = s.fatalCause := rfl
@[simp] theorem State.goTo_txStatus (s : State) (fs : List Frame) : (s.goTo fs).txStatus = s.txStatus := rfl
@[simp] theorem State.goTo_devState (s : State) (fs : List Frame) : (s.goTo fs).devState = s.devState := rfl
@[simp] theorem State.goTo_addr (s : State) (fs : List Frame) : (s.goTo fs).addr = s.addr := rfl
@[simp] theorem State.goTo_setup (s : State) (fs : List Frame) : (s.goTo fs).setup = s.setup := rfl
@[simp] theorem State.goTo_txbuf (s : State) (fs : List Frame) : (s.goTo fs).txbuf = s.txbuf := rfl
@[simp] theorem State.goTo_txlen (s : State) (fs : List Frame) : (s.goTo fs).txlen = s.txlen := rfl
@[simp] theorem State.goTo_speed (s : State) (fs : List Frame) : (s.goTo fs).speed = s.speed := rfl
@[simp] theorem State.goTo_vbusSense (s : State) (fs : List Frame) : (s.goTo fs).vbusSense = s.vbusSense := rfl
@[simp] theorem State.goTo_rxw (s : State) (fs : List Frame) : (s.goTo fs).rxw = s.rxw := rfl
@[simp] theorem State.goTo_snap (s : State) (fs : List Frame) : (s.goTo fs).snap = s.snap := rfl
@[simp] theorem State.goTo_idx (s : State) (fs : List Frame) : (s.goTo fs).idx = s.idx := rfl
@[simp] theorem State.goTo_agg (s : State) (fs : List Frame) : (s.goTo fs).agg = s.agg := rfl
@[simp] theorem State.goTo_epn (s : State) (fs : List Frame) : (s.goTo fs).epn = s.epn := rfl
@[simp] theorem State.goTo_evt (s : State) (fs : List Frame) : (s.goTo fs).evt = s.evt := rfl
@[simp] theorem State.goTo_txk (s : State) (fs : List Frame) : (s.goTo fs).txk = s.txk := rfl
@[simp] theorem State.goTo_par (s : State) (fs : List Frame) : (s.goTo fs).par = s.par := rfl
@[simp] theorem State.goTo_calls (s : State) (fs : List Frame) : (s.goTo fs).calls = s.calls := rfl
@[simp] theorem State.goTo_resetIn (s : State) (fs : List Frame) : (s.goTo fs).resetIn = s.resetIn := rfl
@[simp] theorem State.goTo_answers (s : State) (fs : List Frame) : (s.goTo fs).answers = s.answers := rfl
@[simp] theorem State.goTo_freeCtr (s : State) (fs : List Frame) : (s.goTo fs).freeCtr = s.freeCtr := rfl
@[simp] theorem State.goTo_trace (s : State) (fs : List Frame) : (s.goTo fs).trace = s.trace := rfl

/-! ## `answerTaken` -/

@[simp] theorem State.answerTaken_seq (s : State) : s.answerTaken.seq = s.seq := by
  unfold State.answerTaken; split <;> rfl
@[simp] theorem State.answerTaken_cont (s : State) : s.answerTaken.cont = s.cont := by
  unfold State.answerTaken; split <;> rfl
@[simp] theorem State.answerTaken_halted (s : State) : s.answerTaken.halted = s.halted := by
  unfold State.answerTaken; split <;> rfl
@[simp] theorem State.answerTaken_fatalCause (s : State) : s.answerTaken.fatalCause = s.fatalCause := by
  unfold State.answerTaken; split <;> rfl
@[simp] theorem State.answerTaken_txStatus (s : State) : s.answerTaken.txStatus = s.txStatus := by
  unfold State.answerTaken; split <;> rfl
@[simp] theorem State.answerTaken_devState (s : State) : s.answerTaken.devState = s.devState := by
  unfold State.answerTaken; split <;> rfl
@[simp] theorem State.answerTaken_addr (s : State) : s.answerTaken.addr = s.addr := by
  unfold State.answerTaken; split <;> rfl
@[simp] theorem State.answerTaken_setup (s : State) : s.answerTaken.setup = s.setup := by
  unfold State.answerTaken; split <;> rfl
@[simp] theorem State.answerTaken_txbuf (s : State) : s.answerTaken.txbuf = s.txbuf := by
  unfold State.answerTaken; split <;> rfl
@[simp] theorem State.answerTaken_txlen (s : State) : s.answerTaken.txlen = s.txlen := by
  unfold State.answerTaken; split <;> rfl
@[simp] theorem State.answerTaken_speed (s : State) : s.answerTaken.speed = s.speed := by
  unfold State.answerTaken; split <;> rfl
@[simp] theorem State.answerTaken_vbusSense (s : State) : s.answerTaken.vbusSense = s.vbusSense := by
  unfold State.answerTaken; split <;> rfl
@[simp] theorem State.answerTaken_rxw (s : State) : s.answerTaken.rxw = s.rxw := by
  unfold State.answerTaken; split <;> rfl
@[simp] theorem State.answerTaken_snap (s : State) : s.answerTaken.snap = s.snap := by
  unfold State.answerTaken; split <;> rfl
@[simp] theorem State.answerTaken_idx (s : State) : s.answerTaken.idx = s.idx := by
  unfold State.answerTaken; split <;> rfl
@[simp] theorem State.answerTaken_agg (s : State) : s.answerTaken.agg = s.agg := by
  unfold State.answerTaken; split <;> rfl
@[simp] theorem State.answerTaken_epn (s : State) : s.answerTaken.epn = s.epn := by
  unfold State.answerTaken; split <;> rfl
@[simp] theorem State.answerTaken_evt (s : State) : s.answerTaken.evt = s.evt := by
  unfold State.answerTaken; split <;> rfl
@[simp] theorem State.answerTaken_txk (s : State) : s.answerTaken.txk = s.txk := by
  unfold State.answerTaken; split <;> rfl
@[simp] theorem State.answerTaken_par (s : State) : s.answerTaken.par = s.par := by
  unfold State.answerTaken; split <;> rfl
@[simp] theorem State.answerTaken_calls (s : State) : s.answerTaken.calls = s.calls := by
  unfold State.answerTaken; split <;> rfl
@[simp] theorem State.answerTaken_resetIn (s : State) : s.answerTaken.resetIn = s.resetIn := by
  unfold State.answerTaken; split <;> rfl
@[simp] theorem State.answerTaken_answers (s : State) : s.answerTaken.answers = s.answers.tail := by
  unfold State.answerTaken; split <;> simp_all
theorem State.answerTaken_freeCtr (s : State) :
    s.answerTaken.freeCtr = if s.answers = [] then s.freeCtr + 1 else s.freeCtr := by
  unfold State.answerTaken; split <;> simp_all
@[simp] theorem State.answerTaken_trace (s : State) : s.answerTaken.trace = s.trace := by
  unfold State.answerTaken; split <;> rfl

/-- A read with a listed answer gives that answer. -/
theorem State.answerValue_cons (s : State) (w : Word) (rest : List Word) (h : s.answers = w :: rest) :
    s.answerValue = w := by
  simp [State.answerValue, h]

/-- A read with a listed answer uses it up. -/
theorem State.answerTaken_cons (s : State) (w : Word) (rest : List Word) (h : s.answers = w :: rest) :
    s.answerTaken = { s with answers := rest } := by
  unfold State.answerTaken; split <;> simp_all

/-- A record changes no answer. -/
@[simp] theorem State.record_answerValue (s : State) (r : Record) : (s.record r).answerValue = s.answerValue := rfl

/-- Recording and taking an answer commute. -/
theorem State.record_answerTaken (s : State) (r : Record) :
    (s.record r).answerTaken = s.answerTaken.record r := by
  unfold State.answerTaken State.record; split <;> simp_all

/-- The next answer depends on the listed answers and the counter of free values alone. -/
theorem State.answerValue_congr (s u : State) (ha : u.answers = s.answers) (hf : u.freeCtr = s.freeCtr) :
    u.answerValue = s.answerValue := by
  simp [State.answerValue, ha, hf]

/-- So does the value of a field read, under one binding. -/
theorem State.fieldValue_congr (s u : State) (f : Field) (n : EpNum) (ha : u.answers = s.answers)
    (hf : u.freeCtr = s.freeCtr) (hp : u.par = s.par) : u.fieldValue f n = s.fieldValue f n := by
  simp [State.fieldValue, State.answerValue_congr s u ha hf, hp]

/-- So does what taking an answer leaves. -/
theorem State.answerTaken_congr (s u : State) (ha : u.answers = s.answers) (hf : u.freeCtr = s.freeCtr) :
    u.answerTaken = { u with answers := s.answerTaken.answers, freeCtr := s.answerTaken.freeCtr } := by
  unfold State.answerTaken
  split <;> split <;> simp_all

/-! ## The primitives as updates -/

@[simp] theorem State.memWrite_eq (s : State) (r : Reg) (v : Word) : s.memWrite r v = s.record (.wr r v) := rfl

@[simp] theorem State.fieldsWrite_eq (s : State) (r : Reg) (fs : List (Field × Word)) :
    s.fieldsWrite r fs = s.record (.wrFields r (truncFields s.par fs r.n)) := rfl

@[simp] theorem State.fifoPush_eq (s : State) (n : EpNum) (w : Word) : s.fifoPush n w = s.record (.push n w) := rfl

@[simp] theorem State.fieldRead_eq (s : State) (r : Reg) (f : Field) :
    s.fieldRead r f = s.answerTaken.record (.rd r f (s.fieldValue f r.n)) := rfl

@[simp] theorem State.memRead_eq (s : State) (r : Reg) :
    s.memRead r = s.answerTaken.record (.rdWord r s.answerValue) := rfl

@[simp] theorem State.rxStatusPop_eq (s : State) : s.rxStatusPop = s.answerTaken.record (.rxpop s.answerValue) := rfl

@[simp] theorem State.fifoPop_eq (s : State) (n : EpNum) :
    s.fifoPop n = s.answerTaken.record (.pop n s.answerValue) := rfl

@[simp] theorem State.ackField_eq (s : State) (r : Reg) (f : Field) :
    s.ackField r f = s.record (.wr r (s.par.ackWord f r.n)) := rfl

@[simp] theorem State.ackGint_eq (s : State) (j : Nat) : s.ackGint j = s.record (.wr (.glob .intSts) (oneHot j)) := rfl

end Sys2Proof.Machine
end

