-- ==== Sys2Proof/Laws/Ops.lean ====
section
/-! SUPPORT. One lemma per shared operation that says everything it does: later proofs cite it and do not unfold the
operation. -/

namespace Sys2Proof.Machine

/-- One entry of a parameter list makes its record and changes nothing else. -/
theorem State.cfgWrite_eq (s : State) (w : CfgWrite) :
    s.cfgWrite w = s.record (cfgRecord s.par s.vbusSense w) := by
  have hv : ∀ v : ParVal, s.parVal v = parValue s.par s.vbusSense v := fun v => by cases v <;> rfl
  cases w with
  | word r v => simp [State.cfgWrite, cfgRecord, hv]
  | fields r fs =>
    simp only [State.cfgWrite, cfgRecord, truncFields, hv, State.fieldsWrite_eq, List.map_map]
    rfl

/-- A parameter list makes its records in order and changes nothing else. -/
theorem State.performWrites_eq (ws : List CfgWrite) (s : State) :
    s.performWrites ws = { s with trace := s.trace ++ ws.map (cfgRecord s.par s.vbusSense) } := by
  induction ws generalizing s with
  | nil => simp [State.performWrites]
  | cons w ws ih =>
    show (s.cfgWrite w).performWrites ws = _
    rw [ih, State.cfgWrite_eq]
    simp [State.record]

/-- A run of pushes makes its records in order and changes nothing else. -/
theorem pushWords_foldl (data : List Byte) (length : Nat) (ks : List Nat) (s : State) :
    ks.foldl (fun t k => t.fifoPush 0 (packWord data length k)) s =
      { s with trace := s.trace ++ ks.map (fun k => Record.push 0 (packWord data length k)) } := by
  induction ks generalizing s with
  | nil => simp
  | cons k ks ih =>
    rw [List.foldl_cons, ih]
    simp [State.record]

/-- The pushes of WRITE_TX (R143). -/
theorem pushWords_eq (data : List Byte) (length : Nat) (s : State) :
    pushWords data length (ceil4 length) s = { s with trace := s.trace ++ pushRecords data length } :=
  pushWords_foldl data length _ s

/-- A length up to 64 is not cut by the 7-bit size field (R36). -/
theorem truncTo_length (n : Nat) (h : n ≤ txbufCap) : truncTo 7 (BitVec.ofNat 32 n) = BitVec.ofNat 32 n := by
  have h' : n ≤ 64 := h
  apply BitVec.eq_of_toNat_eq
  simp only [truncTo, BitVec.toNat_setWidth, BitVec.toNat_ofNat]
  omega

/-- REARM_OUT (R144). -/
theorem rearmOut_eq (n : EpNum) (s : State) :
    rearmOut n s = s.record (.wrFields ⟨.outCtl, n⟩ [(.outCnak, 1), (.outEpena, 1)]) := rfl

/-- WRITE_TX after both checks (R143). -/
theorem writeTxSend_eq (data : List Byte) (n : Nat) (h : n ≤ txbufCap) (s : State) :
    writeTxSend data n s =
      { s with
        txStatus := .ok
        txk := BitVec.ofNat 5 (ceil4 n)
        trace := s.trace ++ sendRecords data n } := by
  simp only [writeTxSend, pushWords_eq, rearmOut_eq, State.fieldsWrite_eq]
  simp [State.record, sendRecords, inReg, truncFields, truncTo_length n h]
  decide

/-- WRITE_TX whose active check fails (R143). -/
theorem writeTx_inactive (data : List Byte) (n : Nat) (s : State) (h : s.fieldValue .inActive = 0) :
    writeTx data n s = (s.fieldRead ⟨.inCtl, 0⟩ .inActive).reportTxAbort .inactive := by
  simp [writeTx, h, inReg]

/-- Whether the space check fails depends on the reads alone: the value that WRITE_TX reads second. -/
theorem State.fieldRead_fieldValue (s : State) (r : Reg) (f g : Field) :
    (s.fieldRead r f).fieldValue g = s.answerTaken.fieldValue g := rfl

/-- WRITE_TX whose space check fails (R143). -/
theorem writeTx_noSpace (data : List Byte) (n : Nat) (s : State) (h : s.fieldValue .inActive ≠ 0)
    (hs : (s.answerTaken.fieldValue .spaceAvail).toNat < ceil4 n) :
    writeTx data n s =
      ((s.fieldRead ⟨.inCtl, 0⟩ .inActive).fieldRead ⟨.inFifoSts, 0⟩ .spaceAvail).reportTxAbort .noSpace := by
  simp only [writeTx, h, if_false, inReg, State.fieldRead_fieldValue, hs, if_true]

/-- WRITE_TX whose checks both pass (R143). -/
theorem writeTx_sends (data : List Byte) (n : Nat) (hn : n ≤ txbufCap) (s : State) (h : s.fieldValue .inActive ≠ 0)
    (hs : ceil4 n ≤ (s.answerTaken.fieldValue .spaceAvail).toNat) :
    writeTx data n s =
      { ((s.fieldRead ⟨.inCtl, 0⟩ .inActive).fieldRead ⟨.inFifoSts, 0⟩ .spaceAvail) with
        txStatus := .ok
        txk := BitVec.ofNat 5 (ceil4 n)
        trace := (((s.fieldRead ⟨.inCtl, 0⟩ .inActive).fieldRead ⟨.inFifoSts, 0⟩ .spaceAvail).trace
          ++ sendRecords data n) } := by
  have hs' : ¬ (s.answerTaken.fieldValue .spaceAvail).toNat < ceil4 n := Nat.not_lt.mpr hs
  simp only [writeTx, h, if_false, inReg, State.fieldRead_fieldValue, hs']
  exact writeTxSend_eq data n hn _

/-- `t` differs from `s` at most in what WRITE_TX writes: `tx_status`, the word counter, the answers and the trace. -/
def OnlyTx (s t : State) : Prop :=
  t = { s with
    txStatus := t.txStatus
    txk := t.txk
    answers := t.answers
    freeCtr := t.freeCtr
    trace := t.trace }

theorem OnlyTx.trans {s t u : State} (h1 : OnlyTx s t) (h2 : OnlyTx t u) : OnlyTx s u := by
  unfold OnlyTx at *
  cases s; cases t; cases u
  simp_all

theorem OnlyTx.record (s : State) (r : Record) : OnlyTx s (s.record r) := rfl

theorem OnlyTx.answerTaken (s : State) : OnlyTx s s.answerTaken := by
  unfold OnlyTx State.answerTaken; split <;> rfl

theorem OnlyTx.fieldRead (s : State) (r : Reg) (f : Field) : OnlyTx s (s.fieldRead r f) :=
  (OnlyTx.answerTaken s).trans (OnlyTx.record _ _)

theorem OnlyTx.reportTxAbort (s : State) (k : TxAbort) : OnlyTx s (s.reportTxAbort k) := rfl

theorem writeTxSend_onlyTx (data : List Byte) (n : Nat) (s : State) : OnlyTx s (writeTxSend data n s) := by
  simp only [writeTxSend, pushWords_eq, rearmOut_eq, State.fieldsWrite_eq, OnlyTx]
  simp [State.record]

/-- WRITE_TX in any of its three ways writes `tx_status` and makes accesses, and changes nothing else (R143). -/
theorem writeTx_onlyTx (data : List Byte) (n : Nat) (s : State) : OnlyTx s (writeTx data n s) := by
  unfold writeTx
  split
  · exact (OnlyTx.fieldRead s _ _).trans (OnlyTx.reportTxAbort _ _)
  · dsimp only
    split
    · exact ((OnlyTx.fieldRead s _ _).trans (OnlyTx.fieldRead _ _ _)).trans (OnlyTx.reportTxAbort _ _)
    · exact ((OnlyTx.fieldRead s (inReg .inCtl 0) .inActive).trans
        (OnlyTx.fieldRead _ (inReg .inFifoSts 0) .spaceAvail)).trans (writeTxSend_onlyTx data n _)

/-- One repetition of a busy-wait: the wanted value, the limit, or one more round (R140). -/
theorem spinOnce_cases (p : SpinPoint) (n : Nat) (next : State → State) (rest : List Frame) (s : State) :
    (s.fieldValue p.field = p.want ∧ spinOnce p n next rest s = next (s.fieldRead rstCtl p.field)) ∨
    (s.fieldValue p.field ≠ p.want ∧ spinLimitReached s.par n = true ∧
      spinOnce p n next rest s = (s.fieldRead rstCtl p.field).raiseFatal .spinTimeout) ∨
    (s.fieldValue p.field ≠ p.want ∧ spinLimitReached s.par n = false ∧
      spinOnce p n next rest s = (s.fieldRead rstCtl p.field).goTo (.spin p (n + 1) :: rest)) := by
  unfold spinOnce
  by_cases h : s.fieldValue p.field = p.want
  · simp [h]
  · cases hl : spinLimitReached s.par n <;> simp [h]

/-! What one repetition does at each of the four busy-waits (R141, R142), with the field and the value wanted written out. -/

theorem spinOnce_txIdle (n : Nat) (next : State → State) (rest : List Frame) (s : State) :
    spinOnce .txIdle n next rest s =
      if s.fieldValue .ahbIdle = 1 then next (s.fieldRead rstCtl .ahbIdle)
      else if spinLimitReached s.par n then (s.fieldRead rstCtl .ahbIdle).raiseFatal .spinTimeout
      else (s.fieldRead rstCtl .ahbIdle).goTo (.spin .txIdle (n + 1) :: rest) := rfl

theorem spinOnce_txDone (n : Nat) (next : State → State) (rest : List Frame) (s : State) :
    spinOnce .txDone n next rest s =
      if s.fieldValue .txfFlush = 0 then next (s.fieldRead rstCtl .txfFlush)
      else if spinLimitReached s.par n then (s.fieldRead rstCtl .txfFlush).raiseFatal .spinTimeout
      else (s.fieldRead rstCtl .txfFlush).goTo (.spin .txDone (n + 1) :: rest) := rfl

theorem spinOnce_rxIdle (n : Nat) (next : State → State) (rest : List Frame) (s : State) :
    spinOnce .rxIdle n next rest s =
      if s.fieldValue .ahbIdle = 1 then next (s.fieldRead rstCtl .ahbIdle)
      else if spinLimitReached s.par n then (s.fieldRead rstCtl .ahbIdle).raiseFatal .spinTimeout
      else (s.fieldRead rstCtl .ahbIdle).goTo (.spin .rxIdle (n + 1) :: rest) := rfl

theorem spinOnce_rxDone (n : Nat) (next : State → State) (rest : List Frame) (s : State) :
    spinOnce .rxDone n next rest s =
      if s.fieldValue .rxfFlush = 0 then next (s.fieldRead rstCtl .rxfFlush)
      else if spinLimitReached s.par n then (s.fieldRead rstCtl .rxfFlush).raiseFatal .spinTimeout
      else (s.fieldRead rstCtl .rxfFlush).goTo (.spin .rxDone (n + 1) :: rest) := rfl

/-- What `raise Fatal(c)` changes (R304): nothing of the context. -/
theorem State.raiseFatal_eq (s : State) (c : Cause) :
    s.raiseFatal c =
      { s with trace := s.trace ++ [.fatal c], halted := true, fatalCause := some c, seq := .halted, cont := [] } := rfl

/-- What `report TxAbort(k)` changes (R306). -/
theorem State.reportTxAbort_eq (s : State) (k : TxAbort) :
    s.reportTxAbort k = { s with trace := s.trace ++ [.txabort k], txStatus := TxStatus.ofAbort k } := rfl

/-- UNSUPPORTED (R244). -/
theorem unsupported_eq (s : State) : unsupported s = { s with trace := s.trace ++ unsupportedRecords s.par } := by
  cases h : s.par.stallOnUnsupported with
  | false => simp [unsupported, unsupportedRecords, h]
  | true =>
    simp only [unsupported, unsupportedRecords, h, if_true, stallEp0, State.fieldsWrite_eq]
    simp [State.record, stallRecords, inReg, outReg, truncFields]
    decide

/-- Staging keeps the length of the buffer (R26). -/
theorem stageBytes_length (buf bytes : List Byte) (n : Nat) (hb : n ≤ bytes.length) (hn : n ≤ buf.length) :
    (stageBytes buf bytes n).length = buf.length := by
  simp [stageBytes]; omega

/-- Reading a staged byte: below `n` the new bytes, from `n` on what was there (R225, R26). -/
theorem stageBytes_getD (buf bytes : List Byte) (n i : Nat) (hb : n ≤ bytes.length) :
    (stageBytes buf bytes n).getD i 0 = if i < n then bytes.getD i 0 else buf.getD i 0 := by
  have hl : (bytes.take n).length = n := by simp [hb]
  unfold stageBytes
  simp only [List.getD_eq_getElem?_getD]
  split
  · next h => rw [List.getElem?_append_left (by omega), List.getElem?_take_of_lt h]
  · next h =>
    rw [List.getElem?_append_right (by omega), List.getElem?_drop, hl]
    congr 2; omega

end Sys2Proof.Machine
end

