-- ==== Sys2Proof/Laws/PerInstr.lean ====
section
/-! SUPPORT. The family `EncodingPlace`: for every operation, at which decoding place the encoder puts its word (the column
`format` of spec/opcode_table.json, R100, R122); the operations of format `entry` and `internal` have no word. -/

namespace Sys2Proof.Laws

/-- The five formats (R100). The rows GET_DESCRIPTOR.* are sub-rows of SETUP8 (R122). -/
inductive Format where
  | gint
  | rxsts
  | epagg
  | epevt
  | setup8
deriving DecidableEq, Repr

/-- The format of a word at a decoding place. -/
def formatOf : FetchWord → Format
  | .gint _ _ => .gint
  | .rxsts _ => .rxsts
  | .epaggOut _ => .epagg
  | .epaggIn _ => .epagg
  | .outEvt _ _ _ => .epevt
  | .inEvt _ _ _ => .epevt
  | .setup8 _ => .setup8
  | .desc _ _ _ => .setup8

/-- The column `format` of the opcode table; none for `entry` and `internal`. -/
def tableFormat : Instr → Option Format
  | .reset => none
  | .init _ => none
  | .irq => none
  | .dispatch => none
  | .ackOnlyB0 => some .gint
  | .ackOnlyB2 => some .gint
  | .ackOnlyB3 => some .gint
  | .ackOnlyB5 => some .gint
  | .ackOnlyB6 => some .gint
  | .ackOnlyB7 => some .gint
  | .ackOnlyB8 => some .gint
  | .ackOnlyB9 => some .gint
  | .ackOnlyB10 => some .gint
  | .ackOnlyB11 => some .gint
  | .ackOnlyB14 => some .gint
  | .ackOnlyB15 => some .gint
  | .ackOnlyB16 => some .gint
  | .ackOnlyB17 => some .gint
  | .ackOnlyB20 => some .gint
  | .ackOnlyB21 => some .gint
  | .ackOnlyB22 => some .gint
  | .ackOnlyB23 => some .gint
  | .ackOnlyB24 => some .gint
  | .ackOnlyB25 => some .gint
  | .ackOnlyB26 => some .gint
  | .ackOnlyB27 => some .gint
  | .ackOnlyB28 => some .gint
  | .ackOnlyB29 => some .gint
  | .ackOnlyB31 => some .gint
  | .evModeMismatch => some .gint
  | .evRxStatus => some .gint
  | .evUsbReset => some .gint
  | .evEnumDone => some .gint
  | .evInEp => some .gint
  | .evOutEp => some .gint
  | .evSession => some .gint
  | .rxNak _ _ _ => some .rxsts
  | .rxDataUpdate _ _ _ => some .rxsts
  | .rxXferComplete _ _ _ => some .rxsts
  | .rxSetupComplete _ _ _ => some .rxsts
  | .rxSetupUpdate _ _ _ => some .rxsts
  | .rxReserved _ _ _ _ => some .rxsts
  | .epaggOut _ => some .epagg
  | .epaggIn _ => some .epagg
  | .oepXfrc _ => some .epevt
  | .oepEpdisd _ => some .epevt
  | .oepStup _ => some .epevt
  | .oepOtepdis _ => some .epevt
  | .oepNak _ => some .epevt
  | .iepXfrc _ => some .epevt
  | .iepEpdisd _ => some .epevt
  | .iepNak _ => some .epevt
  | .reqGetStatus => some .setup8
  | .reqClearFeature => some .setup8
  | .reqSetFeature => some .setup8
  | .reqSetAddress _ => some .setup8
  | .reqGetDescriptor _ _ _ => some .setup8
  | .reqSetDescriptor => some .setup8
  | .reqGetConfiguration => some .setup8
  | .reqSetConfiguration => some .setup8
  | .reqGetInterface => some .setup8
  | .reqSetInterface => some .setup8
  | .reqSynchFrame => some .setup8
  | .reqUnknown _ => some .setup8
  | .getDescriptorDevice _ _ => some .setup8
  | .getDescriptorConfiguration _ _ => some .setup8
  | .getDescriptorString => some .setup8
  | .getDescriptorInterface => some .setup8
  | .getDescriptorEndpoint => some .setup8
  | .getDescriptorQualifier => some .setup8
  | .getDescriptorOther _ => some .setup8
  | .flushTx => none
  | .flushRx => none
  | .writeTx _ _ => none
  | .rearmOut _ => none
  | .zlp => none
  | .armSetupOut0 => none
  | .ep0Setup => none
  | .unsupported => none
  | .stallEp0 => none
  | .fatal _ => none
  | .txabort _ => none

/-- Under every binding the encoder puts the operation's word at a place of the operation's format, and gives none for the
operations that have none. -/
def EncodingPlace.Statement (i : Instr) : Prop := ∀ p : Params, (encode p i).map formatOf = tableFormat i

namespace EncodingPlace

theorem reset : Statement (.reset) := fun _ => rfl
theorem init (vbus : Bool) : Statement (.init vbus) := fun _ => rfl
theorem irq : Statement (.irq) := fun _ => rfl
theorem dispatch : Statement (.dispatch) := fun _ => rfl
theorem ackOnlyB0 : Statement (.ackOnlyB0) := fun _ => rfl
theorem ackOnlyB2 : Statement (.ackOnlyB2) := fun _ => rfl
theorem ackOnlyB3 : Statement (.ackOnlyB3) := fun _ => rfl
theorem ackOnlyB5 : Statement (.ackOnlyB5) := fun _ => rfl
theorem ackOnlyB6 : Statement (.ackOnlyB6) := fun _ => rfl
theorem ackOnlyB7 : Statement (.ackOnlyB7) := fun _ => rfl
theorem ackOnlyB8 : Statement (.ackOnlyB8) := fun _ => rfl
theorem ackOnlyB9 : Statement (.ackOnlyB9) := fun _ => rfl
theorem ackOnlyB10 : Statement (.ackOnlyB10) := fun _ => rfl
theorem ackOnlyB11 : Statement (.ackOnlyB11) := fun _ => rfl
theorem ackOnlyB14 : Statement (.ackOnlyB14) := fun _ => rfl
theorem ackOnlyB15 : Statement (.ackOnlyB15) := fun _ => rfl
theorem ackOnlyB16 : Statement (.ackOnlyB16) := fun _ => rfl
theorem ackOnlyB17 : Statement (.ackOnlyB17) := fun _ => rfl
theorem ackOnlyB20 : Statement (.ackOnlyB20) := fun _ => rfl
theorem ackOnlyB21 : Statement (.ackOnlyB21) := fun _ => rfl
theorem ackOnlyB22 : Statement (.ackOnlyB22) := fun _ => rfl
theorem ackOnlyB23 : Statement (.ackOnlyB23) := fun _ => rfl
theorem ackOnlyB24 : Statement (.ackOnlyB24) := fun _ => rfl
theorem ackOnlyB25 : Statement (.ackOnlyB25) := fun _ => rfl
theorem ackOnlyB26 : Statement (.ackOnlyB26) := fun _ => rfl
theorem ackOnlyB27 : Statement (.ackOnlyB27) := fun _ => rfl
theorem ackOnlyB28 : Statement (.ackOnlyB28) := fun _ => rfl
theorem ackOnlyB29 : Statement (.ackOnlyB29) := fun _ => rfl
theorem ackOnlyB31 : Statement (.ackOnlyB31) := fun _ => rfl
theorem evModeMismatch : Statement (.evModeMismatch) := fun _ => rfl
theorem evRxStatus : Statement (.evRxStatus) := fun _ => rfl
theorem evUsbReset : Statement (.evUsbReset) := fun _ => rfl
theorem evEnumDone : Statement (.evEnumDone) := fun _ => rfl
theorem evInEp : Statement (.evInEp) := fun _ => rfl
theorem evOutEp : Statement (.evOutEp) := fun _ => rfl
theorem evSession : Statement (.evSession) := fun _ => rfl
theorem rxNak (ep bc dt : Word) : Statement (.rxNak ep bc dt) := fun _ => rfl
theorem rxDataUpdate (ep bc dt : Word) : Statement (.rxDataUpdate ep bc dt) := fun _ => rfl
theorem rxXferComplete (ep bc dt : Word) : Statement (.rxXferComplete ep bc dt) := fun _ => rfl
theorem rxSetupComplete (ep bc dt : Word) : Statement (.rxSetupComplete ep bc dt) := fun _ => rfl
theorem rxSetupUpdate (ep bc dt : Word) : Statement (.rxSetupUpdate ep bc dt) := fun _ => rfl
theorem rxReserved (kind ep bc dt : Word) : Statement (.rxReserved kind ep bc dt) := fun _ => rfl
theorem epaggOut (pending : BitVec 16) : Statement (.epaggOut pending) := fun _ => rfl
theorem epaggIn (pending : BitVec 16) : Statement (.epaggIn pending) := fun _ => rfl
theorem oepXfrc (n : EpNum) : Statement (.oepXfrc n) := fun _ => rfl
theorem oepEpdisd (n : EpNum) : Statement (.oepEpdisd n) := fun _ => rfl
theorem oepStup (n : EpNum) : Statement (.oepStup n) := fun _ => rfl
theorem oepOtepdis (n : EpNum) : Statement (.oepOtepdis n) := fun _ => rfl
theorem oepNak (n : EpNum) : Statement (.oepNak n) := fun _ => rfl
theorem iepXfrc (n : EpNum) : Statement (.iepXfrc n) := fun _ => rfl
theorem iepEpdisd (n : EpNum) : Statement (.iepEpdisd n) := fun _ => rfl
theorem iepNak (n : EpNum) : Statement (.iepNak n) := fun _ => rfl
theorem reqGetStatus : Statement (.reqGetStatus) := fun _ => rfl
theorem reqClearFeature : Statement (.reqClearFeature) := fun _ => rfl
theorem reqSetFeature : Statement (.reqSetFeature) := fun _ => rfl
theorem reqSetAddress (a : BitVec 7) : Statement (.reqSetAddress a) := fun _ => rfl
theorem reqGetDescriptor (t i : Byte) (len : BitVec 16) : Statement (.reqGetDescriptor t i len) := fun _ => rfl
theorem reqSetDescriptor : Statement (.reqSetDescriptor) := fun _ => rfl
theorem reqGetConfiguration : Statement (.reqGetConfiguration) := fun _ => rfl
theorem reqSetConfiguration : Statement (.reqSetConfiguration) := fun _ => rfl
theorem reqGetInterface : Statement (.reqGetInterface) := fun _ => rfl
theorem reqSetInterface : Statement (.reqSetInterface) := fun _ => rfl
theorem reqSynchFrame : Statement (.reqSynchFrame) := fun _ => rfl
theorem reqUnknown (request : Byte) : Statement (.reqUnknown request) := fun _ => rfl
theorem getDescriptorDevice (i : Byte) (len : BitVec 16) : Statement (.getDescriptorDevice i len) := fun _ => rfl
theorem getDescriptorConfiguration (i : Byte) (len : BitVec 16) : Statement (.getDescriptorConfiguration i len) := fun _ => rfl
theorem getDescriptorString : Statement (.getDescriptorString) := fun _ => rfl
theorem getDescriptorInterface : Statement (.getDescriptorInterface) := fun _ => rfl
theorem getDescriptorEndpoint : Statement (.getDescriptorEndpoint) := fun _ => rfl
theorem getDescriptorQualifier : Statement (.getDescriptorQualifier) := fun _ => rfl
theorem getDescriptorOther (t : Byte) : Statement (.getDescriptorOther t) := fun _ => rfl
theorem flushTx : Statement (.flushTx) := fun _ => rfl
theorem flushRx : Statement (.flushRx) := fun _ => rfl
theorem writeTx (data : List Byte) (len : BitVec 16) : Statement (.writeTx data len) := fun _ => rfl
theorem rearmOut (n : EpNum) : Statement (.rearmOut n) := fun _ => rfl
theorem zlp : Statement (.zlp) := fun _ => rfl
theorem armSetupOut0 : Statement (.armSetupOut0) := fun _ => rfl
theorem ep0Setup : Statement (.ep0Setup) := fun _ => rfl
theorem unsupported : Statement (.unsupported) := fun _ => rfl
theorem stallEp0 : Statement (.stallEp0) := fun _ => rfl
theorem fatal (c : Cause) : Statement (.fatal c) := fun _ => rfl
theorem txabort (r : TxAbort) : Statement (.txabort r) := fun _ => rfl

end EncodingPlace

end Sys2Proof.Laws
end

