-- ==== Sys2Proof/Laws/Step.lean ====
section
/-! SUPPORT. What `step` does, case by case: later proofs cite these and do not unfold the sequencer. -/

namespace Sys2Proof.Machine

/-- Under an accepted configuration a step is the sequencer's. -/
theorem step_of_wf (s : State) (h : s.par.wf = true) : step s = s.sequence := by simp [step, h]

/-- A step that gives a next state has an accepted configuration. -/
theorem step_next_wf (s t : State) (h : step s = .next t) : s.par.wf = true := by
  unfold step at h
  split at h
  · assumption
  · cases h

/-- With no reset input asserted a step is `advance`. -/
theorem step_of_no_reset (s : State) (h : s.par.wf = true) (hr : s.resetIn = none) : step s = s.advance := by
  simp [step, h, State.sequence, hr]

/-- With no call at the head that is served at once, the sequencer proceeds. -/
theorem advance_of_irqs (s : State) (h : ∀ c ∈ s.calls, c = .irq) : s.advance = s.proceed := by
  unfold State.advance
  split
  · next cs hc => have := h .reset (by simp [hc]); cases this
  · next v cs hc => have := h (.init v) (by simp [hc]); cases this
  · rfl

/-- At a place, the sequencer does what that place says. -/
theorem proceed_at (s : State) (f : Frame) (rest : List Frame) (h : s.cont = f :: rest) :
    s.proceed = resume f { s with cont := rest } := by
  unfold State.proceed; split <;> simp_all

/-- With no host call but interrupts and no reset input, a step at a place is what that place says. -/
theorem step_at (s : State) (f : Frame) (rest : List Frame) (h : s.par.wf = true) (hr : s.resetIn = none)
    (hc : ∀ c ∈ s.calls, c = .irq) (hf : s.cont = f :: rest) : step s = resume f { s with cont := rest } := by
  rw [step_of_no_reset s h hr, advance_of_irqs s hc, proceed_at s f rest hf]

/-- The word of a place does not depend on the places below it. -/
theorem Frame.word_cont (f : Frame) (s : State) (rest : List Frame) : f.word { s with cont := rest } = f.word s := by
  cases f <;> rfl

/-- A step of the sequencer that gives a next state, in its four ways: a reset call, an initialiser call, a place, an
interrupt call where it stands nowhere, or a wait. -/
theorem advance_next_cases (s t : State) (h : s.advance = .next t) :
    (∃ cs, s.calls = .reset :: cs ∧ exec .reset { s with calls := cs } = .next t) ∨
    (∃ v cs, s.calls = .init v :: cs ∧ exec (.init v) { s with calls := cs } = .next t) ∨
    (∃ f rest, s.cont = f :: rest ∧ resume f { s with cont := rest } = .next t) ∨
    (∃ cs, s.cont = [] ∧ s.calls = .irq :: cs ∧ exec .irq { s with calls := cs } = .next t) ∨
    (s.cont = [] ∧ s.calls = [] ∧ s.seq ≠ .halted ∧ t = s) := by
  unfold State.advance at h
  split at h
  · next cs hc => exact .inl ⟨cs, hc, h⟩
  · next v cs hc => exact .inr (.inl ⟨v, cs, hc, h⟩)
  · next h1 h2 =>
    unfold State.proceed at h
    split at h
    · next f rest hf => exact .inr (.inr (.inl ⟨f, rest, hf, h⟩))
    · next hf =>
      split at h
      · next cs hc => exact .inr (.inr (.inr (.inl ⟨cs, hf, hc, h⟩)))
      · next h3 =>
        split at h
        · cases h
        · next hs =>
          refine .inr (.inr (.inr (.inr ⟨hf, ?_, hs, by cases h; rfl⟩)))
          cases hc : s.calls with
          | nil => rfl
          | cons c cs =>
            cases c with
            | reset => exact absurd hc (h1 cs)
            | init v => exact absurd hc (h2 v cs)
            | irq => exact absurd hc (h3 cs)

end Sys2Proof.Machine
end

