-- ==== Sys2Proof/Tests/Slice0.lean ====
section
/-! SUPPORT. Tests: the expected values are the spec's examples and vectors (95_test_vectors.md; the case is named in each
docstring) or words written out from the encodings of 30_encoding.md; and a witness for every hypothesis of a statement. -/

namespace Sys2Proof.Tests

set_option Elab.async false

open Sys2Proof Sys2Proof.Machine

/-! ## Helpers -/

/-- The records a meaning or a step made, from a state with an empty trace. -/
def traceOf : Out → Option (List Record)
  | .next s => some s.trace
  | .fault _ => none
  | .refused _ => none

/-- A part of the next state. -/
def viewOf {α : Type} (f : State → α) : Out → Option α
  | .next s => some (f s)
  | .fault _ => none
  | .refused _ => none

/-- The machine in DefaultAddress, the environment's answers as listed. -/
def inDefault (answers : List Word) : State :=
  { State.reset with seq := .handler, devState := .defaultAddress, answers := answers }

/-- The words in which the fields that the block reads are 1, at the default positions: AHB_IDLE is bit 31, B_SESSION_VALID bit
19 (R75), ACTIVE bit 15 (R77). -/
def busIdle : Word := 0x80000000

def session : Word := 0x00080000

def active : Word := 0x00008000

/-- The same with the sequencer at a place. -/
def standing (cont : List Frame) (answers : List Word) : State := { inDefault answers with cont := cont }

/-- The default parameters with the STALL option. -/
def stalling : Params := { Params.default with stallOnUnsupported := true }

/-- The default parameters with a limit on the busy-waits. -/
def limited (n : Nat) : Params := { Params.default with spinLimit := some n }

/-- A binding whose mode-mismatch bit stands at position 0, where the table has an ACK_ONLY row. -/
def mmisAt0 : Params := { Params.default with fields := ⟨.mmis, none, 0, 1⟩ :: Params.default.fields }

/-! ## WellFormed: one ill-formed term for each check, refused -/

theorem test_wf_ackOnly : Instr.wf mmisAt0 .ackOnlyB0 = false := by decide +kernel

theorem test_wf_rxReserved : Instr.wf Params.default (.rxReserved 6 0 8 0) = false := by decide +kernel

theorem test_wf_reqUnknown : Instr.wf Params.default (.reqUnknown 9) = false := by decide +kernel

theorem test_wf_getDescriptorOther : Instr.wf Params.default (.getDescriptorOther 3) = false := by decide +kernel

theorem test_wf_writeTx_long : Instr.wf Params.default (.writeTx (List.replicate 65 0) 65) = false := by decide +kernel

theorem test_wf_writeTx_short : Instr.wf Params.default (.writeTx [1, 2, 3] 4) = false := by decide +kernel

theorem test_wf_accepts : Instr.wf Params.default (.writeTx [1, 2, 3, 4] 4) = true ∧
    Instr.wf Params.default (.rxReserved 5 0 0 0) = true ∧ Instr.wf Params.default (.reqUnknown 13) = true ∧
    Instr.wf Params.default (.getDescriptorOther 0x22) = true ∧ Instr.wf Params.default .ackOnlyB0 = true := by
  decide +kernel

theorem test_wf_rx_operands : Instr.wf Params.default (.rxNak 16 0 0) = false ∧
    Instr.wf Params.default (.rxNak 0 2048 0) = false ∧ Instr.wf Params.default (.rxNak 0 0 4) = false ∧
    Instr.wf Params.default (.rxReserved 16 0 0 0) = false ∧ Instr.wf Params.default (.rxNak 15 2047 3) = true := by
  decide +kernel

/-! ## Configurations -/

theorem test_default_wf : Params.default.wf = true := by decide +kernel

/-- R8 (a): two fields of one register overlap. -/
def overlapping : Params := { Params.default with fields := ⟨.txfFlush, none, 4, 1⟩ :: Params.default.fields }

/-- R8: a field outside the word. -/
def outside : Params := { Params.default with fields := ⟨.spaceAvail, none, 20, 16⟩ :: Params.default.fields }

/-- R8: a field without a row. -/
def unbound : Params := { Params.default with fields := defaultEndpointFields }

/-- R35: a field wider than its column "Width"; R105: a status field without a bit. -/
def wrongWidth : Params := { Params.default with fields := ⟨.spaceAvail, none, 0, 15⟩ :: Params.default.fields }

def emptyRange : Params := { Params.default with fields := ⟨.rxDataToggle, none, 15, 0⟩ :: Params.default.fields }

/-- R8 (c): a code that is no value of the status-kind field. -/
def wideKind : Params := { Params.default with rxkNak := 16 }

/-- R65: a base not divisible by 4. -/
def misalignedBase : Params := { Params.default with base := 0x50000001 }

/-- R7, R105: another layout of the status word, the kind in 3 bits and the byte count in 8. -/
def narrowStatus : Params :=
  { Params.default with
    fields := [⟨.rxStatusKind, none, 0, 3⟩, ⟨.rxByteCount, none, 8, 8⟩, ⟨.rxEndpoint, none, 4, 4⟩, ⟨.rxDataToggle, none, 16, 1⟩]
      ++ Params.default.fields }

/-- R8 (c), (d), (e): two equal codes. -/
def sameKind : Params := { Params.default with rxkNak := 2 }

def sameRequest : Params := { Params.default with reqGetStatus := 5 }

def sameTag : Params := { Params.default with dtString := 1 }

/-- R65: an offset not divisible by 4. -/
def misaligned : Params := { Params.default with regs := ⟨.intSts, none, 0x15, 0⟩ :: Params.default.regs }

/-- A register without an offset. -/
def noRegister : Params := { Params.default with regs := [] }

/-- R222 (a): an entry longer than the transmit buffer. -/
def longEntry : Params := { Params.default with descTable := [⟨1, 0, List.replicate 65 0⟩] }

/-- An entry of a list of writes that names a register without a row, a field of another register, and a second instance of a
register that has one. -/
def unboundEntry : Params := { Params.default with initWrites := [.word (.glob (.other 0)) (.lit 0)] }

def foreignField : Params := { Params.default with enumUnmaskWrites := [.fields (.glob .usbCfg) [(.devAddr, .lit 1)]] }

def secondMask : Params := { Params.default with resetMaskWrites := [.word ⟨.intMsk, 1⟩ (.lit 0)] }

/-- Fields of one endpoint alone that overlap, at endpoint 15. -/
def overlapAt15 : Params := { Params.default with fields := ⟨.outStup, some 15, 0, 1⟩ :: Params.default.fields }

/-- A binding of another shape (R7, R71), with an extended list of writes (R342 (5)): the event register and the NAK bit of OUT
endpoint 3 stand elsewhere; a FIFO-sizing register and two more fields of `G.USB_CFG` are bound. -/
def platform : Params :=
  { Params.default with
    regs := ⟨.outInt, some 3, 0xC00, 0⟩ :: ⟨.other 0, none, 0x024, 0⟩ :: Params.default.regs
    fields := ⟨.outNak, some 3, 7, 1⟩ :: ⟨.other .usbCfg .config 0, none, 30, 1⟩ ::
      ⟨.other .usbCfg .command 1, none, 31, 1⟩ :: Params.default.fields
    initWrites := .word (.glob (.other 0)) (.byFlag 0x40 0x80) ::
      .fields (.glob .usbCfg) [(.other .usbCfg .config 0, .lit 3)] :: defaultInitWrites }

theorem test_platform_wf : platform.wf = true := by decide +kernel

theorem test_platform_binding : regAddr platform ⟨.outInt, 3⟩ = 0x50000C00 ∧ regAddr platform ⟨.outInt, 2⟩ = 0x50000B48 ∧
    decode platform (.outEvt 3 0 0x00000080) = .ok (.oepNak 3) ∧
    decode platform (.outEvt 2 0 0x00000080) = .error .nothingLeft ∧
    traceOf (exec (.oepNak 3) { inDefault [] with par := platform }) = some [.wr ⟨.outInt, 3⟩ 0x80] := by decide +kernel

theorem test_platform_init :
    (traceOf (exec (.init true) { State.reset with par := platform })).map (·.take 3) =
      some [.init true, .wr ⟨.other 0, 0⟩ 0x80, .wrFields ⟨.usbCfg, 0⟩ [(.other .usbCfg .config 0, 1)]] := by
  decide +kernel

/-- R352 and R35: an unlisted command field and every unlisted bit of a write-one-to-clear register are written as 0. -/
theorem test_grouped_write_actions :
    busAccesses platform 0xC0000000 (.wrFields ⟨.usbCfg, 0⟩ [(.turnaround, 6)]) =
      [.rd 0x5000000C 0xC0000000, .wr 0x5000000C 0x40001800] ∧
    busAccesses platform 0xFFFFFFFF (.wrFields ⟨.intSts, 0⟩ [(.usbrst, 1)]) =
      [.rd 0x50000014 0xFFFFFFFF, .wr 0x50000014 0x00001000] := by decide +kernel

theorem test_bad_configurations :
    [unboundEntry, foreignField, secondMask, overlapAt15, overlapping, outside, unbound, wrongWidth, emptyRange, wideKind, sameKind, sameRequest, sameTag, misaligned,
      misalignedBase, noRegister, longEntry].any (fun p => p.wf) = false := by decide +kernel

/-- R7, R105: another layout is accepted, and its bit ranges are the ones read. -/
theorem test_other_layout : narrowStatus.wf = true ∧
    decode narrowStatus (.rxsts 0xFFFE08F6) = .ok (.rxSetupUpdate 15 8 0) ∧
    decode narrowStatus (.rxsts 0x00010007) = .ok (.rxReserved 7 0 0 1) := by decide +kernel

/-! ## Decoding: words written out from 30_encoding.md -/

/-- R102, R184: bits 0 to 15 of a GINT word. -/
theorem test_decode_gint_low :
    decode Params.default (.gint 0 0x00000001) = .ok .ackOnlyB0 ∧
    decode Params.default (.gint 0 0x00000002) = .ok .evModeMismatch ∧
    decode Params.default (.gint 0 0x00000004) = .ok .ackOnlyB2 ∧
    decode Params.default (.gint 0 0x00000008) = .ok .ackOnlyB3 ∧
    decode Params.default (.gint 0 0x00000010) = .ok .evRxStatus ∧
    decode Params.default (.gint 0 0x00000020) = .ok .ackOnlyB5 ∧
    decode Params.default (.gint 0 0x00000040) = .ok .ackOnlyB6 ∧
    decode Params.default (.gint 0 0x00000080) = .ok .ackOnlyB7 ∧
    decode Params.default (.gint 0 0x00000100) = .ok .ackOnlyB8 ∧
    decode Params.default (.gint 0 0x00000200) = .ok .ackOnlyB9 ∧
    decode Params.default (.gint 0 0x00000400) = .ok .ackOnlyB10 ∧
    decode Params.default (.gint 0 0x00000800) = .ok .ackOnlyB11 ∧
    decode Params.default (.gint 0 0x00001000) = .ok .evUsbReset ∧
    decode Params.default (.gint 0 0x00002000) = .ok .evEnumDone ∧
    decode Params.default (.gint 0 0x00004000) = .ok .ackOnlyB14 ∧
    decode Params.default (.gint 0 0x00008000) = .ok .ackOnlyB15 := by decide +kernel

/-- R102, R184: bits 16 to 31 of a GINT word. -/
theorem test_decode_gint_high :
    decode Params.default (.gint 0 0x00010000) = .ok .ackOnlyB16 ∧
    decode Params.default (.gint 0 0x00020000) = .ok .ackOnlyB17 ∧
    decode Params.default (.gint 0 0x00040000) = .ok .evInEp ∧
    decode Params.default (.gint 0 0x00080000) = .ok .evOutEp ∧
    decode Params.default (.gint 0 0x00100000) = .ok .ackOnlyB20 ∧
    decode Params.default (.gint 0 0x00200000) = .ok .ackOnlyB21 ∧
    decode Params.default (.gint 0 0x00400000) = .ok .ackOnlyB22 ∧
    decode Params.default (.gint 0 0x00800000) = .ok .ackOnlyB23 ∧
    decode Params.default (.gint 0 0x01000000) = .ok .ackOnlyB24 ∧
    decode Params.default (.gint 0 0x02000000) = .ok .ackOnlyB25 ∧
    decode Params.default (.gint 0 0x04000000) = .ok .ackOnlyB26 ∧
    decode Params.default (.gint 0 0x08000000) = .ok .ackOnlyB27 ∧
    decode Params.default (.gint 0 0x10000000) = .ok .ackOnlyB28 ∧
    decode Params.default (.gint 0 0x20000000) = .ok .ackOnlyB29 ∧
    decode Params.default (.gint 0 0x40000000) = .ok .evSession ∧
    decode Params.default (.gint 0 0x80000000) = .ok .ackOnlyB31 := by decide +kernel

/-- R181: the lowest set bit at or above the place; none left at the end. -/
theorem test_decode_gint_order :
    decode Params.default (.gint 0 0x80000C08) = .ok .ackOnlyB3 ∧
    decode Params.default (.gint 4 0x80000C08) = .ok .ackOnlyB10 ∧
    decode Params.default (.gint 12 0x80000C08) = .ok .ackOnlyB31 ∧
    decode Params.default (.gint 32 0x80000C08) = .error .nothingLeft := by decide +kernel

/-- Section 2.4 of the vectors: the table of receive status words. -/
theorem test_decode_rxsts :
    decode Params.default (.rxsts 0x000C0080) = .ok (.rxSetupUpdate 0 8 0) ∧
    decode Params.default (.rxsts 0x000C808F) = .ok (.rxSetupUpdate 15 8 1) ∧
    decode Params.default (.rxsts 0x00080000) = .ok (.rxSetupComplete 0 0 0) ∧
    decode Params.default (.rxsts 0x00020000) = .ok (.rxNak 0 0 0) ∧
    decode Params.default (.rxsts 0x00050000) = .ok (.rxDataUpdate 0 0 2) ∧
    decode Params.default (.rxsts 0x00040401) = .ok (.rxDataUpdate 1 64 0) ∧
    decode Params.default (.rxsts 0x00060000) = .ok (.rxXferComplete 0 0 0) ∧
    decode Params.default (.rxsts 0x000A0000) = .ok (.rxReserved 5 0 0 0) ∧
    decode Params.default (.rxsts 0x001E7FFF) = .ok (.rxReserved 15 15 2047 0) ∧
    decode Params.default (.rxsts 0xFFEC0080) = .ok (.rxSetupUpdate 0 8 0) := by decide +kernel

/-- R108: the two halves of an aggregate word. -/
theorem test_decode_epagg :
    decode Params.default (.epaggOut 0x00060005) = .ok (.epaggOut 6) ∧
    decode Params.default (.epaggIn 0x00060005) = .ok (.epaggIn 5) := by decide +kernel

/-- R109, R110: the event bits, on an endpoint other than 0. -/
theorem test_decode_epevt :
    decode Params.default (.outEvt 3 0 0x00000001) = .ok (.oepXfrc 3) ∧
    decode Params.default (.outEvt 3 0 0x00000002) = .ok (.oepEpdisd 3) ∧
    decode Params.default (.outEvt 3 0 0x00000008) = .ok (.oepStup 3) ∧
    decode Params.default (.outEvt 3 0 0x00000010) = .ok (.oepOtepdis 3) ∧
    decode Params.default (.outEvt 3 0 0x00002000) = .ok (.oepNak 3) ∧
    decode Params.default (.outEvt 3 3 0xFFFFFFFF) = .ok (.oepOtepdis 3) ∧
    decode Params.default (.outEvt 0 0 0x00000024) = .error .nothingLeft ∧
    decode Params.default (.inEvt 9 0 0x00000001) = .ok (.iepXfrc 9) ∧
    decode Params.default (.inEvt 9 0 0x00000002) = .ok (.iepEpdisd 9) ∧
    decode Params.default (.inEvt 9 0 0x00002000) = .ok (.iepNak 9) ∧
    decode Params.default (.inEvt 0 0 0x00000088) = .error .nothingLeft := by decide +kernel

/-- Section 2.5 of the vectors: the request byte alone selects. -/
theorem test_decode_setup8 :
    decode Params.default (.setup8 (setupOfBytes 0x80 0x00 0x00 0x00 0x00 0x00 0x02 0x00)) = .ok .reqGetStatus ∧
    decode Params.default (.setup8 (setupOfBytes 0x02 0x01 0x00 0x00 0x81 0x00 0x00 0x00)) = .ok .reqClearFeature ∧
    decode Params.default (.setup8 (setupOfBytes 0x00 0x03 0x01 0x00 0x00 0x00 0x00 0x00)) = .ok .reqSetFeature ∧
    decode Params.default (.setup8 (setupOfBytes 0x00 0x05 0x85 0x12 0x34 0x56 0x78 0x9A)) = .ok (.reqSetAddress 5) ∧
    decode Params.default (.setup8 (setupOfBytes 0x80 0x06 0x01 0x02 0x09 0x04 0x12 0x34)) =
      .ok (.reqGetDescriptor 2 1 0x3412) ∧
    decode Params.default (.setup8 (setupOfBytes 0x00 0x07 0x00 0x01 0x00 0x00 0x12 0x00)) = .ok .reqSetDescriptor ∧
    decode Params.default (.setup8 (setupOfBytes 0x80 0x08 0x00 0x00 0x00 0x00 0x01 0x00)) = .ok .reqGetConfiguration ∧
    decode Params.default (.setup8 (setupOfBytes 0x00 0x09 0x01 0x00 0x00 0x00 0x00 0x00)) = .ok .reqSetConfiguration ∧
    decode Params.default (.setup8 (setupOfBytes 0x81 0x0A 0x00 0x00 0x00 0x00 0x01 0x00)) = .ok .reqGetInterface ∧
    decode Params.default (.setup8 (setupOfBytes 0x01 0x0B 0x00 0x00 0x00 0x00 0x00 0x00)) = .ok .reqSetInterface ∧
    decode Params.default (.setup8 (setupOfBytes 0x82 0x0C 0x00 0x00 0x81 0x00 0x02 0x00)) = .ok .reqSynchFrame ∧
    decode Params.default (.setup8 (setupOfBytes 0x21 0x0D 0x00 0x00 0x00 0x00 0x00 0x00)) = .ok (.reqUnknown 13) := by
  decide +kernel

/-- R116: the tags under GET_DESCRIPTOR. -/
theorem test_decode_desc :
    decode Params.default (.desc 1 0 64) = .ok (.getDescriptorDevice 0 64) ∧
    decode Params.default (.desc 2 1 9) = .ok (.getDescriptorConfiguration 1 9) ∧
    decode Params.default (.desc 3 0 255) = .ok .getDescriptorString ∧
    decode Params.default (.desc 4 0 9) = .ok .getDescriptorInterface ∧
    decode Params.default (.desc 5 0 7) = .ok .getDescriptorEndpoint ∧
    decode Params.default (.desc 6 0 10) = .ok .getDescriptorQualifier ∧
    decode Params.default (.desc 0x22 0 64) = .ok (.getDescriptorOther 0x22) := by decide +kernel

/-- Words numbered as the opcode table numbers them, of each format. -/
theorem test_decodeTableWord :
    decodeTableWord 32 0x00000002 = some .evModeMismatch ∧
    decodeTableWord 32 0x000C0080 = some (.rxSetupUpdate 0 8 0) ∧
    decodeTableWord 32 0x00030000 = some (.rxNak 0 0 2) ∧
    decodeTableWord 64 0x0000000000050500 = some (.reqSetAddress 5) ∧
    decodeTableWord 64 0x0000000000000600 = some (.reqGetDescriptor 0 0 0) ∧
    decodeTableWord 64 0x0040000001000600 = some (.getDescriptorDevice 0 64) ∧
    decodeTableWord 64 0x0000000000000D00 = some (.reqUnknown 13) ∧
    decodeTableWord 0 0 = none ∧ decodeTableWord 8 256 = none := by decide +kernel

/-! ## The first step after reset, on a table word -/

/-- The word runs as the very next step, from the reset state. -/
theorem test_withFetchWord_runs :
    viewOf (·.fatalCause) (step (State.reset.withFetchWord 32 0x00000002)) = some (some .modeMismatch) ∧
    traceOf (step (State.reset.withFetchWord 32 0x80000000)) = some [.wr ⟨.intSts, 0⟩ 0x80000000] ∧
    viewOf (·.fatalCause) (step (State.reset.withFetchWord 32 0x000C0060)) = some (some .setupLen) ∧
    viewOf (·.cont) (step (State.reset.withFetchWord 64 0x0000000001000600)) = some [] ∧
    viewOf (·.fatalCause) (step (State.reset.withFetchWord 64 0x0000000000050500)) = some (some .setAddressState) := by
  decide +kernel

/-! ## Meanings, against the vectors of 95_test_vectors.md -/

/-- R281 and vector X1. -/
theorem test_init : traceOf (exec (.init false) State.reset) =
    some [.init false, .wrFields ⟨.devCtl, 0⟩ [(.softDisconnect, 1)], .wrFields ⟨.genCfg, 0⟩ [(.vbusSensing, 0)],
      .wrFields ⟨.usbCfg, 0⟩ [(.turnaround, 6)], .wr ⟨.intMsk, 0⟩ 0x400C3012,
      .wrFields ⟨.ahbCfg, 0⟩ [(.globalIntEnable, 1)]] := by decide +kernel

/-- Vectors X2, X3: calls outside the contract. -/
theorem test_entry_ignored :
    traceOf (exec .irq State.reset) = some [] ∧
    traceOf (exec (.init true) (inDefault [])) = some [] := by decide +kernel

/-- Vector E1: a pass over a word with no bit set, in three steps and the call. -/
theorem test_empty_pass :
    traceOf (Host.Core.run Sys2Proof.core 3 { State.reset with seq := .idle, calls := [.irq], answers := [0] }) =
      some [.irqEnter, .rdWord ⟨.intSts, 0⟩ 0, .irqExit] := by decide +kernel

/-- R163's example: the eleven records. -/
theorem test_usbReset :
    traceOf (exec .evUsbReset { inDefault [busIdle, 0, busIdle, 0] with devState := .powered }) =
      some [.wr ⟨.inEvtMsk, 0⟩ 1, .wr ⟨.outEvtMsk, 0⟩ 9, .rd ⟨.rstCtl, 0⟩ .ahbIdle 1,
        .wrFields ⟨.rstCtl, 0⟩ [(.txfNum, 0x10), (.txfFlush, 1)], .rd ⟨.rstCtl, 0⟩ .txfFlush 0,
        .rd ⟨.rstCtl, 0⟩ .ahbIdle 1, .wrFields ⟨.rstCtl, 0⟩ [(.rxfFlush, 1)], .rd ⟨.rstCtl, 0⟩ .rxfFlush 0,
        .wrFields ⟨.devCfg, 0⟩ [(.devAddr, 0)],
        .wrFields ⟨.outTsiz, 0⟩ [(.outStupcnt, 1), (.outPktcnt, 1), (.outXfrsiz, 8)],
        .wrFields ⟨.outCtl, 0⟩ [(.outCnak, 1), (.outEpena, 1)]] := by decide +kernel

/-- R163: a wait in the middle leaves the state at Powered. -/
theorem test_usbReset_waits :
    viewOf (fun t => (t.devState, t.cont)) (exec .evUsbReset { inDefault [busIdle, 0, 0] with devState := .powered }) =
      some (.powered, [.spin .rxIdle 1, .usbResetTail]) := by decide +kernel

/-- R166's example. -/
theorem test_enumDone :
    traceOf (exec .evEnumDone { inDefault [6] with devState := .resettingBus }) =
      some [.rd ⟨.devSts, 0⟩ .enumSpeed 3, .wrFields ⟨.inCtl, 0⟩ [(.inMpsiz, 0)],
        .wrFields ⟨.devCtl, 0⟩ [(.clearGlobalInNak, 1)], .wrFields ⟨.usbCfg, 0⟩ [(.turnaround, 6)],
        .wrFields ⟨.epIntMsk, 0⟩ [(.in0, 1), (.out0, 1)]] := by decide +kernel

/-- R161's example, and a session in another state (vector E7). -/
theorem test_session :
    traceOf (exec .evSession { inDefault [session] with devState := .uninitialized }) =
      some [.rd ⟨.otgCtl, 0⟩ .bSessionValid 1, .wrFields ⟨.devCtl, 0⟩ [(.softDisconnect, 0)]] ∧
    traceOf (exec .evSession (inDefault [session])) = some [.rd ⟨.otgCtl, 0⟩ .bSessionValid 1] := by decide +kernel

/-- R203's example: the packet, byte by byte. -/
theorem test_setupCopy :
    viewOf (·.setup) (exec (.rxSetupUpdate 0 8 0) (inDefault [0x01000680, 0x00400000])) =
      some (setupOfBytes 0x80 0x06 0x00 0x01 0x00 0x00 0x40 0x00) := by decide +kernel

/-- R202: both conjuncts false, the endpoint is reported (row 7 of section 2.4). -/
theorem test_setupCause :
    viewOf (·.fatalCause) (exec (.rxSetupUpdate 3 6 0) (inDefault [])) = some (some .setupEp) ∧
    viewOf (·.fatalCause) (exec (.rxSetupUpdate 0 10 0) (inDefault [])) = some (some .setupLen) := by decide +kernel

/-- Vectors V4 and V6. -/
theorem test_writeTx :
    traceOf (exec (.writeTx [0x12, 0x01, 0x00, 0x02, 0x00] 5) (inDefault [0xFFFF7FFF, 16])) =
      some [.rd ⟨.inCtl, 0⟩ .inActive 0, .txabort .inactive] ∧
    traceOf (exec (.writeTx [0x12, 0x01, 0x00, 0x02, 0x00] 5) (inDefault [active, 16])) =
      some [.rd ⟨.inCtl, 0⟩ .inActive 1, .rd ⟨.inFifoSts, 0⟩ .spaceAvail 16,
        .wrFields ⟨.inTsiz, 0⟩ [(.inPktcnt, 1), (.inXfrsiz, 5)], .wrFields ⟨.inCtl, 0⟩ [(.inStall, 0)],
        .wrFields ⟨.inCtl, 0⟩ [(.inCnak, 1), (.inEpena, 1)], .push 0 0x02000112, .push 0 0x00000000,
        .wrFields ⟨.outCtl, 0⟩ [(.outCnak, 1), (.outEpena, 1)]] ∧
    traceOf (exec (.writeTx fixtureDeviceDesc 18) (inDefault [active, 4])) =
      some [.rd ⟨.inCtl, 0⟩ .inActive 1, .rd ⟨.inFifoSts, 0⟩ .spaceAvail 4, .txabort .noSpace] := by decide +kernel

/-- Vector S7, from the lookup on. -/
theorem test_getDescriptor_device :
    traceOf (exec (.getDescriptorDevice 0 64) (inDefault [active, 16])) =
      some [.desc 1 0 (some 18), .rd ⟨.inCtl, 0⟩ .inActive 1, .rd ⟨.inFifoSts, 0⟩ .spaceAvail 16,
        .wrFields ⟨.inTsiz, 0⟩ [(.inPktcnt, 1), (.inXfrsiz, 18)], .wrFields ⟨.inCtl, 0⟩ [(.inStall, 0)],
        .wrFields ⟨.inCtl, 0⟩ [(.inCnak, 1), (.inEpena, 1)], .push 0 0x02000112, .push 0 0x40000000,
        .push 0 0x57110483, .push 0 0x02010100, .push 0 0x00000103,
        .wrFields ⟨.outCtl, 0⟩ [(.outCnak, 1), (.outEpena, 1)]] := by decide +kernel

/-- Section 2.5: `wLength` 9 of the configuration descriptor; the last word is zero-filled. -/
theorem test_getDescriptor_configuration :
    viewOf (fun t => (t.txlen, t.trace.drop 6)) (exec (.getDescriptorConfiguration 0 9) (inDefault [active, 16])) =
      some (9, [.push 0 0x00190209, .push 0 0xC0000101, .push 0 0x00000032,
        .wrFields ⟨.outCtl, 0⟩ [(.outCnak, 1), (.outEpena, 1)]]) := by decide +kernel

/-- Section 2.5: nothing to send, not found. -/
theorem test_getDescriptor_dropped :
    traceOf (exec (.getDescriptorDevice 0 0) (inDefault [])) = some [.desc 1 0 (some 18)] ∧
    traceOf (exec (.getDescriptorConfiguration 1 9) (inDefault [])) = some [.desc 2 1 none] := by decide +kernel

/-- Section 2.5: the request byte of SET_CONFIGURATION under the STALL option. -/
theorem test_stall :
    traceOf (exec .reqSetConfiguration { inDefault [] with par := stalling }) =
      some [.wrFields ⟨.inCtl, 0⟩ [(.inStall, 1)], .wrFields ⟨.outCtl, 0⟩ [(.outStall, 1)]] ∧
    traceOf (exec .reqSetConfiguration (inDefault [])) = some [] := by decide +kernel

/-- Section 2.5: SET_ADDRESS with the endpoint inactive keeps the address; in Powered it is fatal. -/
theorem test_setAddress :
    viewOf (fun t => (t.addr, t.txStatus)) (exec (.reqSetAddress 5) (inDefault [0])) = some (5, .abortInactive) ∧
    viewOf (·.fatalCause) (exec (.reqSetAddress 5) { inDefault [] with devState := .powered }) =
      some (some .setAddressState) := by decide +kernel

/-- Vectors I4 and O7: the lowest pending endpoint, and the re-arming of the paired OUT endpoint. -/
theorem test_endpoints :
    viewOf (fun t => (t.epn, t.trace)) (exec (.epaggOut 6) (inDefault [2])) =
      some (1, [.rdWord ⟨.outInt, 1⟩ 2]) ∧
    traceOf (exec (.iepXfrc 1) (inDefault [])) =
      some [.wrFields ⟨.outCtl, 1⟩ [(.outCnak, 1), (.outEpena, 1)], .wr ⟨.inInt, 1⟩ 1] ∧
    traceOf (exec (.oepNak 2) (inDefault [])) = some [.wr ⟨.outInt, 2⟩ 0x2000] := by decide +kernel

/-- Vector F4: with a limit of 3 the third unsuccessful read is fatal. -/
theorem test_spinLimit :
    traceOf (Host.Core.run Sys2Proof.core 2
        { standing [.spin .rxIdle 1] [0, 0] with par := limited 3 }) =
      some [.rd ⟨.rstCtl, 0⟩ .ahbIdle 0, .rd ⟨.rstCtl, 0⟩ .ahbIdle 0, .fatal .spinTimeout] := by decide +kernel

/-- R340: a reset input after two of the five records of a WRITE_TX pass leaves those two. -/
theorem test_reset_cuts :
    viewOf (fun t => (t.seq, t.trace, t.answers))
      (step { standing [.descDecode 1 0 64] [active, 16, 7] with resetIn := some 2 }) =
      some (.preInit, [.desc 1 0 (some 18), .rd ⟨.inCtl, 0⟩ .inActive 1], [16, 7]) := by decide +kernel

/-- R66, R352: a grouped write of IN[0].CTL at word level keeps the packet size, clears the enable that reads as 1. -/
theorem test_busAccesses :
    busAccesses Params.default 0x84208003 (.wrFields ⟨.inCtl, 0⟩ [(.inStall, 0)]) =
      [.rd 0x50000900 0x84208003, .wr 0x50000900 0x00008003] ∧
    busAccesses Params.default 0x00000040 (.rd ⟨.rstCtl, 0⟩ .ahbIdle 1) = [.rd 0x50000010 0x80000040] ∧
    busAccesses Params.default 0 (.push 2 7) = [.wr 0x50003000 7] := by decide +kernel

/-! ## Witnesses: states and operands that meet the hypotheses of each statement -/

/-- Whether an outcome is a next state. -/
def isNext : Out → Bool
  | .next _ => true
  | .fault _ => false
  | .refused _ => false

/-- What every witness of a step has: an accepted configuration, no reset input, no call but interrupts. -/
abbrev Quiet (s : State) : Prop := s.par.wf = true ∧ s.resetIn = none ∧ ∀ c ∈ s.calls, c = .irq

/-- The place at bit `start` of a snapshot. -/
def scanning (start : Nat) (w : Word) : State := { standing [.scan start, .irqExit] [] with snap := w }

/-- The place in the inspection of an event word of endpoint 0. -/
def inspecting (f : Frame) (w : Word) : State :=
  { standing [f, .ackGint 19, .scan 20, .irqExit] [] with evt := w }

/-- IDLE with one interrupt call, and the answers. -/
def idleWith (answers : List Word) : State :=
  { State.reset with seq := .idle, calls := [.irq], answers := answers }

/-- HALTED after a mode mismatch, with an interrupt call. -/
def haltedState : State :=
  { State.reset with seq := .halted, halted := true, fatalCause := some .modeMismatch, calls := [.irq] }

theorem witness_DecodeOfEncode :
    Params.default.wf = true ∧ Instr.wf Params.default (.rxReserved 15 15 2047 3) = true ∧
    encode Params.default (.rxReserved 15 15 2047 3) = some (.rxsts 0x001FFFFF) := by decide +kernel

theorem witness_DecodedIsWellFormed :
    decode Params.default (.gint 31 0x80000000) = .ok .ackOnlyB31 ∧ Params.default.wf = true ∧
    Params.default.fieldOf .rxStatusKind 0xFFE2000F = Params.default.rxkNak ∧
    decode Params.default (.rxsts 0xFFE2000F) = .ok (.rxNak 15 0 0) ∧
    (0 : Word) ∉ Params.default.rxkCodes ∧ (2 : Byte) ∉ Params.default.reqCodes ∧ (0 : Byte) ∉ Params.default.dtCodes ∧
    setupRequest (setupOfBytes 0xFF 0x0C 1 2 3 4 5 6) = Params.default.reqSynchFrame := by decide +kernel

theorem witness_BusAccessesAligned :
    BusAccess.rd 0x50000EEC 0 ∈ busAccesses { Params.default with regs := ⟨.inTsiz, none, 0x910, 0x64⟩ :: Params.default.regs } 0
      (.rdWord ⟨.inTsiz, 15⟩ 0) ∧
    BusAccess.wr 0x50010000 7 ∈ busAccesses Params.default 0 (.push 15 7) := by decide +kernel

theorem witness_NoIllegalWord :
    decode Params.default (.gint 31 0x7FFFFFFF) = .error .nothingLeft ∧
    decode Params.default (.outEvt 0 4 0x0000001B) = .error .nothingLeft ∧
    decode Params.default (.inEvt 15 0 0xFFFFDFFC) = .error .nothingLeft := by decide +kernel

theorem witness_PackWordLanes :
    (packWord [1, 2, 3, 4, 5] 5 1).extractLsb' 0 8 = 5#8 ∧ (packWord [1, 2, 3, 4, 5, 6] 5 1).extractLsb' 8 8 = 0#8 ∧
    ceil4 0 = 0 ∧ ceil4 64 = 16 ∧ ceil4 65535 = 16384 := by decide +kernel

theorem witness_FieldsWriteMerges :
    Params.default.wf = true ∧
    (∀ x ∈ ([(.inStall, 3), (.inMpsiz, 7)] : List (Field × Word)), x.1 ∈ Params.default.fieldsOf ⟨.inCtl, 0⟩) ∧
    (([(.inStall, 3), (.inMpsiz, 7)] : List (Field × Word)).map Prod.fst).Nodup ∧
    mergeFields Params.default 0 0x00000008 [(.inStall, 3), (.inMpsiz, 7)] = 0x0020000B ∧
    Field.other .usbCfg .command 1 ∈ platform.fieldsOf ⟨.usbCfg, 0⟩ ∧
    Field.outNak ∈ platform.fieldsOf ⟨.outInt, 15⟩ ∧ RegName.outInt ∈ [RegName.intSts, .inInt, .outInt] ∧
    RegName.inCtl ∉ [RegName.intSts, .inInt, .outInt] := by decide +kernel

theorem witness_AnswersAreTakenInOrder :
    (inDefault [0xFFFFFFFF, 7]).answers = [0xFFFFFFFF, 7] ∧ (inDefault []).answers = [] ∧
    (inDefault [0x00000005, 7]).fieldValue .enumSpeed = 2 ∧ (inDefault [busIdle]).fieldValue .ahbIdle = 1 := by decide +kernel

theorem witness_StepRunsDecoded :
    Quiet (scanning 0 0x00001000) ∧ (scanning 0 0x00001000).cont = [.scan 0, .irqExit] ∧
    (scanning 0 0x00001000).fetch = some (.gint 0 0x00001000) ∧
    decode (scanning 0 0x00001000).par (.gint 0 0x00001000) = .ok .evUsbReset := by decide +kernel

theorem witness_StepServesSetBits_scan :
    Quiet (scanning 30 0xC0000001) ∧ (scanning 30 0xC0000001).snap.getLsbD 30 = true ∧
    (scanning 30 0xC0000001).par.handlerAt 30 = some .srqint ∧ eventInstr .srqint = some .evSession ∧
    Quiet (scanning 31 0xC0000001) ∧ (scanning 31 0xC0000001).snap.getLsbD 31 = true ∧
    (scanning 31 0xC0000001).par.handlerAt 31 = none ∧ ackOnlyAt 31 = some .ackOnlyB31 ∧
    (∀ k, k < 3 → (scanning 0 0x00000008).snap.getLsbD k = false) := by decide +kernel

theorem witness_StepServesSetBits_events :
    Quiet (inspecting (.outEvents 0) 0x00002000) ∧ outEventFields[4]? = some .outNak ∧
    (inspecting (.outEvents 0) 0x00002000).evt.getLsbD ((inspecting (.outEvents 0) 0).par.lo .outNak 0) = true ∧
    (∀ g ∈ outEventFields.take 4,
      (inspecting (.outEvents 0) 0x00002000).evt.getLsbD ((inspecting (.outEvents 0) 0).par.lo g) = false) ∧
    Quiet (inspecting (.inEvents 2) 0x00002001) ∧ inEventFields[2]? = some .inNak ∧
    (inspecting (.inEvents 2) 0x00002001).evt.getLsbD ((inspecting (.inEvents 2) 0).par.lo .inNak) = true ∧
    Quiet (standing [.rxDecode] []) ∧ Quiet (standing [.outDecode] []) ∧ Quiet (standing [.inDecode] []) ∧ Quiet (standing [.setupDecode] []) ∧ Quiet (standing [.descDecode 6 0 10] []) := by
  decide +kernel

theorem witness_StepEndsLoops :
    Quiet (scanning 32 0xFFFFFFFF) ∧ (∀ j, 31 ≤ j → j < 32 → (scanning 31 0x7FFFFFFF).snap.getLsbD j = false) ∧
    viewOf (·.idx) (step (scanning 31 0x7FFFFFFF)) = some 32 ∧
    Quiet (inspecting (.outEvents 0) 0x00000024) ∧ traceOf (step (inspecting (.outEvents 0) 0x00000024)) = some [] ∧
    (∀ f ∈ outEventFields, (0x00000024 : Word).getLsbD (Params.default.lo f) = false) ∧
    Quiet (inspecting (.inEvents 0) 0x00000088) ∧
    (∀ f ∈ inEventFields, (0x00000088 : Word).getLsbD (Params.default.lo f) = false) := by decide +kernel

theorem witness_StepReturnsFromCalls :
    Quiet (standing [.ackGint 31, .scan 32] []) ∧ Quiet (standing [.ackStup] []) ∧ Quiet (standing [.irqExit] []) ∧
    Quiet (standing [.flushRx, .usbResetTail] []) ∧ Quiet (standing [.usbResetTail] []) ∧
    traceOf (step (standing [.ackGint 31, .scan 32] [])) = some [.wr ⟨.intSts, 0⟩ 0x80000000] ∧
    traceOf (step (standing [.ackStup] [])) = some [.wr ⟨.outInt, 0⟩ 8] ∧
    viewOf (·.seq) (step (standing [.irqExit] [])) = some .idle := by decide +kernel

theorem witness_StepTakesHostCalls :
    ({ haltedState with calls := [.reset] } : State).calls = [.reset] ∧
    isNext (step { haltedState with calls := [.reset] }) = true ∧
    isNext (step { State.reset with calls := [.init true] }) = true ∧
    (idleWith [0]).cont = [] ∧ isNext (step (idleWith [0])) = true ∧
    isNext (step { State.reset with seq := .idle }) = true ∧
    isNext (step { haltedState with calls := [] }) = false := by decide +kernel

theorem witness_BadConfigurationRefused :
    (Field.mmis ∈ unbound.fieldsOf (.glob .intSts) ∧ unbound.fieldRow .mmis = none) ∧ 32 < outside.lo .spaceAvail 7 + 16 ∧
    (overlapping.lo .txfFlush < overlapping.lo .rxfFlush + 1 ∧
      overlapping.lo .rxfFlush < overlapping.lo .txfFlush + 1) ∧
    (overlapAt15.lo .outStup 15 < overlapAt15.lo .outXfrc 15 + 1 ∧ overlapAt15.lo .outXfrc 15 < overlapAt15.lo .outStup 15 + 1) ∧
    ¬ sameKind.rxkCodes.Nodup ∧ ¬ sameRequest.reqCodes.Nodup ∧ ¬ sameTag.dtCodes.Nodup ∧
    (Reg.legal ⟨.inInt, 15⟩ = true ∧ noRegister.regRow ⟨.inInt, 15⟩ = none) ∧
    ⟨.intSts, none, 0x15, 0⟩ ∈ misaligned.regs ∧ (∃ e ∈ longEntry.descTable, 64 < e.bytes.length) := by decide +kernel

theorem witness_BadConfigurationRefused_ranges :
    (Field.width .spaceAvail = some 16 ∧ wrongWidth.rowWidth .spaceAvail 0 = 15) ∧
    (Field.width .rxDataToggle = none ∧ emptyRange.rowWidth .rxDataToggle = 0) ∧
    wideKind.rxkNak ∈ wideKind.rxkCodes ∧ wideKind.width .rxStatusKind = 4 ∧ wideKind.rxkNak.toNat = 2 ^ 4 ∧
    misalignedBase.base.toNat % 4 ≠ 0 ∧
    unboundEntry.regRow (.glob (.other 0)) = none ∧ Reg.legal ⟨.intMsk, 1⟩ = false ∧
    Field.devAddr ∉ foreignField.fieldsOf (.glob .usbCfg) := by decide +kernel

theorem witness_StepStopsOnlyWhenHalted :
    State.reset.par.wf = true ∧ isNext (step State.reset) = true ∧
    ({ haltedState with calls := [] } : State).par.wf = true := by decide +kernel

theorem witness_ResetCutsOperation :
    ({ standing [.ackGint 4] [] with resetIn := some 1 } : State).par.wf = true ∧
    traceOf ({ standing [.ackGint 4] [] with resetIn := some 1 } : State).advance = some [.wr ⟨.intSts, 0⟩ 16] ∧
    viewOf (·.seq) (step { standing [.ackGint 4] [] with resetIn := some 1 }) = some .preInit ∧
    traceOf ({ standing [.ackGint 4] [] with resetIn := some 2 } : State).advance = some [.wr ⟨.intSts, 0⟩ 16] ∧
    viewOf (·.resetIn) (step { standing [.ackGint 4] [] with resetIn := some 2 }) = some (some 1) ∧
    ({ haltedState with calls := [], resetIn := some 3 } : State).cont = [] ∧
    viewOf (fun t => (t.seq, t.halted)) (step { haltedState with calls := [], resetIn := some 3 }) =
      some (.preInit, false) := by decide +kernel

/-- The invariant at a state in the deepest position, the protocol inside a pass. -/
theorem witness_inv :
    (standing [.descDecode 1 0 64, .ackStup, .outEvents 3, .ackGint 19, .scan 20, .irqExit] [active, 16]).Inv :=
  ⟨by decide, by decide, by decide, by decide, by decide, by decide, by decide⟩

theorem witness_StepKeepsInv :
    isNext (step (standing [.descDecode 1 0 64, .ackStup, .outEvents 3, .ackGint 19, .scan 20, .irqExit] [active, 16])) =
      true := by decide +kernel

theorem witness_PositionDepthBounded :
    (standing [.descDecode 1 0 64, .ackStup, .outEvents 3, .ackGint 19, .scan 20, .irqExit] [active, 16]).cont.length = 6 := by
  decide

theorem witness_StepKeepsParametersAndTrace : isNext (step (scanning 0 1)) = true ∧
    isNext (stepUnder stalling (scanning 0 1)) = true := by decide +kernel

/-- The invariant in a pass that is about to serve a session. -/
theorem witness_inv_session :
    ({ scanning 30 0x40000000 with devState := .uninitialized, answers := [session] } : State).Inv :=
  ⟨by decide, by decide, by decide, by decide, by decide, by decide, by decide⟩

theorem witness_StepAdvancesDeviceState :
    viewOf (·.devState) (step { scanning 30 0x40000000 with devState := .uninitialized, answers := [session] }) =
      some .powered ∧
    ({ scanning 30 0x40000000 with devState := .uninitialized, answers := [session] } : State).calls.head? ≠ some .reset ∧
    viewOf (·.devState) (exec .evSession (inDefault [session])) = some .defaultAddress ∧
    viewOf (·.devState) (exec .evUsbReset (inDefault [])) = some .defaultAddress ∧
    viewOf (·.devState) (exec .evEnumDone (inDefault [])) = some .defaultAddress ∧
    viewOf (·.devState) (exec (.reqSetAddress 127) (inDefault [active, 0])) = some .defaultAddress := by
  decide +kernel

theorem witness_ContextWriters :
    viewOf (·.devState) (exec .zlp (inDefault [active, 0])) = some .defaultAddress ∧
    viewOf (·.addr) (exec .zlp (inDefault [active, 0])) = some 0 := by decide +kernel

theorem witness_inv_halted : haltedState.Inv :=
  ⟨by decide, by decide, by decide, by decide, by decide, by decide, by decide⟩

theorem witness_HaltedLeavesByResetOnly :
    haltedState.halted = true ∧ haltedState.calls.head? ≠ some .reset ∧ isNext (step haltedState) = true ∧
    viewOf (·.seq) (step { haltedState with calls := [.reset] }) = some .preInit := by decide +kernel

theorem witness_inv_halted_reset : ({ haltedState with calls := [.reset] } : State).Inv :=
  ⟨by decide, by decide, by decide, by decide, by decide, by decide, by decide⟩

theorem witness_InitRunsWriteList : State.reset.seq = .preInit := by decide

theorem witness_EntryCallsIgnored : haltedState.seq ≠ .preInit ∧ haltedState.seq ≠ .idle := by decide

theorem witness_IrqEntersDispatch : (idleWith [0]).seq = .idle := by decide

theorem witness_PassAcknowledgesEachBitOnce :
    (idleWith [0x80000C08]).par.wf = true ∧ (idleWith [0x80000C08]).calls = [.irq] ∧
    (idleWith [0x80000C08]).answerValue = 0x80000C08 ∧
    (∀ j, j < 32 → (0x80000C08 : Word).getLsbD j = true → Params.default.handlerAt j = none) := by decide +kernel

theorem witness_HandlersDoNotAcknowledge :
    isNext (exec .evUsbReset { inDefault [busIdle, 0, busIdle, 0] with devState := .powered }) = true ∧
    (∀ j, j < 33 → ackOnlyAt j ≠ some .evUsbReset) ∧
    (∀ w ∈ Params.default.initWrites ++ Params.default.resetMaskWrites ++ Params.default.enumUnmaskWrites,
      cfgWritesReg ⟨.intSts, 0⟩ w = false) := by decide +kernel

theorem witness_SessionValid :
    ({ inDefault [session] with devState := .uninitialized } : State).fieldValue .bSessionValid = 1 ∧
    ({ inDefault [0] with devState := .uninitialized } : State).fieldValue .bSessionValid = 0 ∧
    (inDefault [session]).devState ≠ .uninitialized := by decide +kernel

theorem witness_OutOfStateTriggersIgnored :
    (inDefault []).devState ≠ .powered ∧ (inDefault []).devState ≠ .resettingBus := by decide

theorem witness_UsbResetAnswered :
    (inDefault [busIdle, 0, busIdle, 0]).fieldValue .ahbIdle = 1 ∧
    (inDefault [busIdle, 0, busIdle, 0]).answerTaken.fieldValue .txfFlush = 0 ∧
    (inDefault [busIdle, 0, busIdle, 0]).answerTaken.answerTaken.fieldValue .ahbIdle = 1 ∧
    (inDefault [busIdle, 0, busIdle, 0]).answerTaken.answerTaken.answerTaken.fieldValue .rxfFlush = 0 := by decide +kernel

theorem witness_UsbResetHangsInPowered :
    (inDefault [0]).par.spinLimit ≠ some 0 ∧ (limited 1).spinLimit ≠ some 0 ∧ (inDefault [0]).fieldValue .ahbIdle = 0 ∧
    (inDefault [busIdle, 0x20]).fieldValue .ahbIdle = 1 ∧
    (inDefault [busIdle, 0x20]).answerTaken.fieldValue .txfFlush = 1 ∧
    (inDefault [busIdle, 0, 0]).answerTaken.answerTaken.fieldValue .ahbIdle = 0 ∧
    (inDefault [busIdle, 0, busIdle, 0x10]).answerTaken.answerTaken.answerTaken.fieldValue .rxfFlush = 1 := by
  decide +kernel

theorem witness_EnumDoneRuns : ({ inDefault [6] with devState := .resettingBus } : State).devState = .resettingBus := by
  decide

theorem witness_RxSetupMalformed : (15 : Word) ≠ 0 ∧ (0 : Word) = 0 ∧ (7 : Word) ≠ 8 ∧ (9 : Word) ≠ 8 := by
  decide

theorem witness_SetupPhaseDone : (1 : EpNum) ≠ 0 ∧ (15 : EpNum) ≠ 0 := by decide

theorem witness_LowestPendingEndpointServed :
    (0x8000 : BitVec 16).getLsbD (15 : EpNum).toNat = true ∧
    (∀ k, k < (15 : EpNum).toNat → (0x8000 : BitVec 16).getLsbD k = false) ∧
    (0x0003 : BitVec 16).getLsbD (0 : EpNum).toNat = true := by decide +kernel

theorem witness_UnsupportedIsDropped :
    (inDefault []).par.stallOnUnsupported = false ∧
    ({ inDefault [] with par := stalling } : State).par.stallOnUnsupported = true := by decide

theorem witness_SetAddress :
    (inDefault [active, 0]).devState = .defaultAddress ∧ (inDefault [active, 0]).fieldValue .inActive = 1 ∧
    (inDefault [0]).fieldValue .inActive = 0 ∧
    ({ inDefault [] with devState := .suspended } : State).devState ≠ .defaultAddress ∧
    ({ inDefault [] with devState := .suspended } : State).devState ≠ .addressed := by decide +kernel

theorem witness_GetDescriptorSends :
    (inDefault [active, 5]).par.wf = true ∧ (inDefault [active, 5]).par.descLookup 1 0 = some fixtureDeviceDesc ∧
    0 < min fixtureDeviceDesc.length (18 : BitVec 16).toNat ∧ (inDefault [active, 5]).fieldValue .inActive = 1 ∧
    ceil4 (min fixtureDeviceDesc.length (18 : BitVec 16).toNat) ≤
      ((inDefault [active, 5]).answerTaken.fieldValue .spaceAvail).toNat := by decide +kernel

theorem witness_GetDescriptorAborts :
    (inDefault [0]).par.descLookup 2 0 = some fixtureConfigDesc ∧
    0 < min fixtureConfigDesc.length (9 : BitVec 16).toNat ∧ (inDefault [0]).fieldValue .inActive = 0 ∧
    (inDefault [active, 2]).fieldValue .inActive = 1 ∧
    ((inDefault [active, 2]).answerTaken.fieldValue .spaceAvail).toNat <
      ceil4 (min fixtureConfigDesc.length (9 : BitVec 16).toNat) := by decide +kernel

theorem witness_GetDescriptorDropped :
    (inDefault []).par.descLookup 1 1 = none ∧ (inDefault []).par.descLookup 2 0 = some fixtureConfigDesc ∧
    ({ Params.default with descTable := [⟨1, 0, []⟩] } : Params).descLookup 1 0 = some [] := by decide +kernel

theorem witness_FlushAnswered :
    (inDefault [0x7FFFFFFF, 0]).fieldValue .ahbIdle = 0 ∧ (inDefault [busIdle, 0]).fieldValue .ahbIdle = 1 ∧
    (inDefault [busIdle, 0]).answerTaken.fieldValue .txfFlush = 0 ∧
    (inDefault [busIdle, 0]).answerTaken.fieldValue .rxfFlush = 0 ∧
    (inDefault [busIdle, 0x20]).answerTaken.fieldValue .txfFlush = 1 ∧
    (inDefault [busIdle, 0x10]).answerTaken.fieldValue .rxfFlush = 1 ∧ (limited 1).spinLimit ≠ some 0 := by
  decide +kernel

theorem witness_SpinAnswered :
    Quiet (standing [.spin .txIdle 3, .flushRx] [busIdle, 0]) ∧ Quiet (standing [.spin .txDone 3] [0]) ∧
    Quiet (standing [.spin .rxIdle 3] [busIdle, 0x10]) ∧ Quiet (standing [.spin .rxDone 3] [0]) ∧
    (standing [.spin .txIdle 3, .flushRx] [busIdle, 0]).fieldValue .ahbIdle = 1 ∧
    (standing [.spin .txIdle 3, .flushRx] [busIdle, 0]).answerTaken.fieldValue .txfFlush = 0 ∧
    (standing [.spin .rxIdle 3] [busIdle, 0x10]).answerTaken.fieldValue .rxfFlush = 1 ∧
    (standing [.spin .txDone 3] [0]).fieldValue .txfFlush = 0 := by decide +kernel

theorem witness_SpinRepeatsForEver :
    Quiet (standing [.spin .txDone 7] [0x20]) ∧ (standing [.spin .txDone 7] [0x20]).par.spinLimit = none ∧
    (standing [.spin .txDone 7] [0x20]).fieldValue (SpinPoint.field .txDone) ≠ SpinPoint.want .txDone := by decide +kernel

theorem witness_SpinLimitFailsClosed :
    Quiet { standing [.spin .rxIdle 1] [0] with par := limited 2 } ∧ (limited 2).spinLimit = some 2 ∧
    ({ standing [.spin .rxIdle 1] [0] with par := limited 2 } : State).fieldValue (SpinPoint.field .rxIdle) ≠
      SpinPoint.want .rxIdle ∧
    Quiet { standing [.spin .rxIdle 0] [0] with par := limited 2 } := by decide +kernel

theorem witness_WriteTxSends :
    (inDefault [active, 16]).fieldValue .inActive = 1 ∧ (64 : BitVec 16).toNat ≤ 64 ∧
    (64 : BitVec 16).toNat ≤ (List.replicate 64 (7 : Byte)).length ∧
    ceil4 (64 : BitVec 16).toNat ≤ ((inDefault [active, 16]).answerTaken.fieldValue .spaceAvail).toNat ∧
    ceil4 (0 : BitVec 16).toNat ≤ ((inDefault [active, 0]).answerTaken.fieldValue .spaceAvail).toNat := by decide +kernel

theorem witness_WriteTxAborts :
    (inDefault [0]).fieldValue .inActive = 0 ∧ (inDefault [active, 15]).fieldValue .inActive = 1 ∧
    ((inDefault [active, 15]).answerTaken.fieldValue .spaceAvail).toNat < ceil4 (64 : BitVec 16).toNat ∧
    64 < (65 : BitVec 16).toNat ∧ ([1, 2, 3] : List Byte).length < (4 : BitVec 16).toNat := by decide +kernel

end Sys2Proof.Tests
end

section
/-! PROOFS. The statements on 00_scope.md: the packing of transmit data (R63), the configurations that are refused (R8, R65,
R66, R222), the depth of a position inside HANDLER (R10, R44), and the environment's answers (R60, R67). -/

namespace Sys2Proof

/-! ## Transmit packing (R63) -/

/-- The lanes of a word of four packed bytes (R63): lane `j` drops the `j` bytes below it and is the lowest byte left. -/
theorem packWord_lane (data : List Byte) (length k j : Nat) (hj : j < 4) :
    (packWord data length k).extractLsb' (8 * j) 8 = packByte data length (4 * k + j) := by
  unfold packWord
  match j, hj with
  | 0, _ => exact BitVec.extractLsb'_append_eq_right
  | 1, _ =>
    rw [BitVec.extractLsb'_append_eq_of_le (by decide)]
    exact BitVec.extractLsb'_append_eq_right
  | 2, _ =>
    rw [BitVec.extractLsb'_append_eq_of_le (by decide), BitVec.extractLsb'_append_eq_of_le (by decide)]
    exact BitVec.extractLsb'_append_eq_right
  | 3, _ =>
    rw [BitVec.extractLsb'_append_eq_of_le (by decide), BitVec.extractLsb'_append_eq_of_le (by decide)]
    exact BitVec.extractLsb'_append_eq_left

/-- `ceil4` rounds up to whole words: its words hold `n` bytes, and one word less does not (R9). -/
theorem ceil4_bounds (n : Nat) : n ≤ 4 * ceil4 n ∧ 4 * ceil4 n < n + 4 := by
  have h : ceil4 n = (n + 3) / 4 := Nat.shiftRight_eq_div_pow (n + 3) 2
  omega

/-- Settles O6: the lanes of a packed word are its four packed bytes, and `ceil4` rounds up. -/
theorem packWordLanes : Obligations.PackWordLanes := ⟨packWord_lane, ceil4_bounds⟩

/-! ## What an accepted configuration has, where a break is to contradict it (R8, R66, R222) -/

/-- The row of a field of a register, under a configuration the model accepts: there is one, its width is the field's, and it
is not empty where R35 gives no width. -/
theorem Params.fieldsOf_row (p : Params) (h : p.wf = true) (r : Reg) (f : Field) (hf : f ∈ p.fieldsOf r) :
    (p.fieldRow f r.n).isSome = true ∧ p.rowWidth f r.n = p.width f r.n ∧ (f.width = none → 0 < p.rowWidth f r.n) := by
  obtain ⟨hok, -⟩ := p.fieldsOf_ok h r f hf
  obtain ⟨hsome, hwidth, hpos, -⟩ := (p.fieldOk_iff r.n f).mp hok
  exact ⟨hsome, hwidth, hpos⟩

/-- Every entry of the Descriptor Table fits the transmit buffer (R222 (a)). -/
theorem Params.descEntry_length (p : Params) (h : p.wf = true) (e : DescEntry) (he : e ∈ p.descTable) :
    e.bytes.length ≤ txbufCap := by
  obtain ⟨-, -, -, hdesc, -⟩ := p.wf_iff.mp h
  simp only [Params.descOk, List.all_eq_true, decide_eq_true_eq] at hdesc
  exact hdesc e he

/-- An accepted grouped write names fields of its register (R66). -/
theorem Params.entryOk_fields (p : Params) (r : Reg) (fs : List (Field × ParVal)) (h : p.entryOk (.fields r fs) = true)
    (x : Field × ParVal) (hx : x ∈ fs) : x.1 ∈ p.fieldsOf r := by
  simp only [Params.entryOk, Bool.and_eq_true, List.all_eq_true, List.contains_iff_mem] at h
  exact h.2 x hx

/-! ## The value of a field (R67) -/

/-- The value of a field as a number: the word without the bits below the field, modulo the field's width. -/
theorem Params.fieldOf_eq_ofNat (p : Params) (f : Field) (w : Word) (n : EpNum) :
    p.fieldOf f w n = BitVec.ofNat 32 (w.toNat / 2 ^ p.lo f n % 2 ^ p.width f n) := by
  apply BitVec.eq_of_toNat_eq
  simp [Params.fieldOf, truncTo, Nat.shiftRight_eq_div_pow]

end Sys2Proof

namespace Sys2Proof.Machine

/-! ## Configurations that are refused (R8, R65, R66, R222) -/

/-- A configuration that the model does not accept is refused in every state (R8). -/
theorem step_of_not_wf (s : State) (h : ¬ s.par.wf = true) : step s = .refused .badConfiguration := by
  simp [step, h]

/-- An accepted entry of a list of writes names a register that there is and that the binding gives. -/
theorem entryOk_reg (p : Params) (e : CfgWrite) (h : p.entryOk e = true) (r : Reg) (hr : cfgWritesReg r e = true) :
    r.legal = true ∧ (p.regRow r).isSome = true := by
  cases e with
  | word q v =>
    obtain rfl : q = r := by simpa [cfgWritesReg] using hr
    simpa [Params.entryOk, Params.bindsReg] using h
  | fields q fs =>
    obtain rfl : q = r := by simpa [cfgWritesReg] using hr
    simp only [Params.entryOk, Params.bindsReg, Bool.and_eq_true] at h
    exact h.1

/-- Settles O15: each break contradicts what an accepted configuration has, so the configuration is refused. -/
theorem badConfigurationRefused : Obligations.BadConfigurationRefused := by
  intro s hbad
  refine step_of_not_wf s fun hwf => ?_
  obtain ⟨hrxkNodup, hreqNodup, hdtNodup⟩ := s.par.codes_nodup hwf
  obtain ⟨hbaseAligned, hrowsAligned⟩ := s.par.row_aligned hwf
  rcases hbad with ⟨r, f, hf, hrow | hout⟩ | ⟨r, f, hf, w, hw, hne⟩ | ⟨r, f, hf, hw, hempty⟩ |
    ⟨r, f, hf, g, hg, hfg, hover⟩ | ⟨c, hc, hwide⟩ | hrxk | hreq | hdt | ⟨r, hlegal, hname, hrow⟩ | hbase |
    ⟨row, hrow, hoff⟩ | ⟨e, he, hlong⟩ | ⟨e, he, r, ⟨hr, hillegal | hrow⟩ | ⟨fs, rfl, x, hx, hforeign⟩⟩
  · obtain ⟨hbound, -, -⟩ := s.par.fieldsOf_row hwf r f hf
    simp [hrow] at hbound
  · exact absurd (s.par.lo_add_width hwf r f hf) (Nat.not_le.mpr hout)
  · obtain ⟨-, hwidth, -⟩ := s.par.fieldsOf_row hwf r f hf
    exact hne (hwidth.trans (s.par.width_fixed f r.n w hw))
  · obtain ⟨-, -, hpos⟩ := s.par.fieldsOf_row hwf r f hf
    exact (hpos hw).ne' hempty
  · have hapart := s.par.fields_apart hwf r f g hf hg hfg
    omega
  · exact absurd (s.par.rxk_lt hwf c hc) (Nat.not_lt.mpr hwide)
  · exact hrxk hrxkNodup
  · exact hreq hreqNodup
  · exact hdt hdtNodup
  · have hbound := s.par.reg_bound hwf r hlegal hname
    simp [hrow] at hbound
  · exact hbase hbaseAligned
  · obtain ⟨hoffset, hstride⟩ := hrowsAligned row hrow
    exact hoff.elim (· hoffset) (· hstride)
  · exact absurd (s.par.descEntry_length hwf e he) (Nat.not_le.mpr hlong)
  · obtain ⟨hlegal, -⟩ := entryOk_reg s.par e (s.par.entry_ok hwf e he) r hr
    simp [hillegal] at hlegal
  · obtain ⟨-, hbound⟩ := entryOk_reg s.par e (s.par.entry_ok hwf e he) r hr
    simp [hrow] at hbound
  · exact hforeign (s.par.entryOk_fields r fs (s.par.entry_ok hwf _ he) x hx)

/-! ## The depth of a position (R10, R44) -/

/-- How many places a position has whose innermost place is this one. -/
def Frame.depth : Frame → Nat
  | .irqExit => 1
  | .scan _ => 2
  | .ackGint _ => 3
  | .rxDecode | .outDecode | .inDecode | .outEvents _ | .inEvents _ | .usbResetTail => 4
  | .ackStup | .flushRx => 5
  | .spin .rxIdle _ | .spin .rxDone _ => 5
  | .setupDecode | .descDecode _ _ _ => 6
  | .spin .txIdle _ | .spin .txDone _ => 6

/-- The deepest places are those of the endpoint-0 protocol and the busy-waits of the first flush. -/
theorem Frame.depth_le (f : Frame) : f.depth ≤ 6 := by
  unfold Frame.depth
  split <;> decide

/-- A place stands one deeper than the place it returns to: the pairs are those of `Frame.above`, at every other pair the
hypothesis is `false = true`. -/
theorem Frame.depth_of_above (f g : Frame) (h : f.above g = true) : f.depth = g.depth + 1 := by
  match f, g, h with
  | .scan _, .irqExit, _ | .ackGint _, .scan _, _ => rfl
  | .rxDecode, .ackGint _, _ | .outDecode, .ackGint _, _ | .inDecode, .ackGint _, _ => rfl
  | .outEvents _, .ackGint _, _ | .inEvents _, .ackGint _, _ | .usbResetTail, .ackGint _, _ => rfl
  | .ackStup, .outEvents _, _ | .flushRx, .usbResetTail, _ => rfl
  | .spin .rxIdle _, .usbResetTail, _ | .spin .rxDone _, .usbResetTail, _ => rfl
  | .setupDecode, .ackStup, _ | .descDecode _ _ _, .ackStup, _ => rfl
  | .spin .txIdle _, .flushRx, _ | .spin .txDone _, .flushRx, _ => rfl

/-- The length of a position inside a pass is the depth of its innermost place. -/
theorem length_of_standsInPass (f : Frame) (rest : List Frame) (h : standsInPass (f :: rest) = true) :
    (f :: rest).length = f.depth := by
  induction rest generalizing f with
  | nil =>
    have hf : f = .irqExit := by simpa [standsInPass] using h
    rw [hf]; rfl
  | cons g rest ih =>
    obtain ⟨hfg, hrest⟩ : f.above g = true ∧ standsInPass (g :: rest) = true := by simpa [standsInPass] using h
    rw [List.length_cons, ih g hrest, f.depth_of_above g hfg]

/-- In a state that has the invariant the sequencer stands nowhere or at a position inside a pass. -/
theorem State.Inv.cont_cases {s : State} (h : s.Inv) : s.cont = [] ∨ standsInPass s.cont = true := by
  have hp := h.position
  split at hp
  · exact .inr hp
  · exact .inl hp

/-- Settles O20: a position is as long as its innermost place is deep, and no place is deeper than 6. -/
theorem positionDepthBounded : Obligations.PositionDepthBounded := by
  intro s hs
  rcases hs.cont_cases with hnil | hpass
  · simp [hnil]
  · cases hc : s.cont with
    | nil => exact Nat.zero_le 6
    | cons f rest =>
      rw [hc] at hpass
      rw [length_of_standsInPass f rest hpass]
      exact f.depth_le

/-! ## The environment's answers (R60, R67) -/

/-- The value that a word has in a field, put back in its place, gives that word. -/
theorem mergeField_fieldOf (p : Params) (n : EpNum) (w : Word) (f : Field) :
    mergeField p n w (f, p.fieldOf f w n) = w := by
  refine BitVec.eq_of_getLsbD_eq fun i hi => ?_
  rw [mergeField_getLsbD p n w _ f i hi, Params.fieldOf_getLsbD]
  split
  · next hin =>
    have hwidth : i - p.lo f n < p.width f n := by omega
    have hplace : p.lo f n + (i - p.lo f n) = i := by omega
    simp [hwidth, hplace]
  · rfl

/-- The word access of a field read is the read of the word that the environment answers. -/
theorem busAccesses_fieldRead (s : State) (r : Reg) (f : Field) :
    busAccesses s.par s.answerValue (.rd r f (s.fieldValue f r.n)) = [.rd (regAddr s.par r) s.answerValue] := by
  simp only [busAccesses, State.fieldValue, mergeField_fieldOf]

/-- A read with no listed answer uses up a free value. -/
theorem State.answerTaken_nil (s : State) (h : s.answers = []) : s.answerTaken = { s with freeCtr := s.freeCtr + 1 } := by
  unfold State.answerTaken; split <;> simp_all

/-- The value of a field read with a listed answer. -/
theorem State.fieldValue_cons (s : State) (w : Word) (rest : List Word) (h : s.answers = w :: rest) (f : Field)
    (n : EpNum) : s.fieldValue f n = BitVec.ofNat 32 (w.toNat / 2 ^ s.par.lo f n % 2 ^ s.par.width f n) := by
  rw [State.fieldValue, s.answerValue_cons w rest h, Params.fieldOf_eq_ofNat]

/-- Settles O9: a listed answer is the value read and is used up, a free one advances its counter, a field read is a value of
its field's width, and its record refines to the read of the word answered. -/
theorem answersAreTakenInOrder : Obligations.AnswersAreTakenInOrder :=
  ⟨fun s w rest h => ⟨s.answerValue_cons w rest h, s.answerTaken_cons w rest h, s.fieldValue_cons w rest h⟩,
    State.answerTaken_nil,
    fun s f n => s.par.fieldOf_lt f s.answerValue n,
    fun s r f => ⟨by simp, busAccesses_fieldRead s r f⟩⟩

end Sys2Proof.Machine
end


section
/-! PROOFS. What the proofs of the state's statements cite: the operations that make accesses alone, what each decoder can
give (R101, R105, R109, R110, R115, R116), and rules for the busy-waits of the two flushes (R140 to R142). -/

namespace Sys2Proof

/-- The operations that make accesses and may set `tx_status`, and do nothing else: all but those that move the sequencer,
raise a fatal, or write the context. -/
def Instr.accessOnly : Instr → Bool
  | .reset | .init _ | .irq | .dispatch => false
  | .evModeMismatch | .evRxStatus | .evUsbReset | .evEnumDone | .evInEp | .evOutEp | .evSession => false
  | .rxSetupUpdate _ _ _ | .epaggOut _ | .epaggIn _ | .oepStup _ => false
  | .reqSetAddress _ | .reqGetDescriptor _ _ _ | .getDescriptorDevice _ _ | .getDescriptorConfiguration _ _ => false
  | .flushTx | .flushRx | .writeTx _ _ | .ep0Setup | .fatal _ => false
  | _ => true

/-! ## What the decoders give -/

/-- A row ACK_ONLY is a row of the format GINT and makes its one access (R184). -/
theorem ackOnlyAt_cases {j : Nat} {i : Instr} (h : ackOnlyAt j = some i) :
    Laws.tableFormat i = some .gint ∧ i.accessOnly = true := by
  unfold ackOnlyAt at h
  split at h <;> cases h <;> exact ⟨rfl, rfl⟩

/-- The handlers are rows of the format GINT (R182). -/
theorem eventInstr_format {f : Field} {i : Instr} (h : eventInstr f = some i) : Laws.tableFormat i = some .gint := by
  unfold eventInstr at h
  split at h <;> cases h <;> rfl

/-- The OUT events are rows of the format EPEVT; only STUP does more than accesses (R252). -/
theorem outEventInstr_cases {n : EpNum} {k : Nat} {i : Instr} (h : outEventInstr n k = some i) :
    Laws.tableFormat i = some .epevt ∧ (i = .oepStup n ∨ i.accessOnly = true) := by
  unfold outEventInstr at h
  split at h <;> cases h
  case h_3 => exact ⟨rfl, .inl rfl⟩
  all_goals exact ⟨rfl, .inr rfl⟩

/-- The IN events are rows of the format EPEVT and make accesses alone (R255). -/
theorem inEventInstr_cases {n : EpNum} {k : Nat} {i : Instr} (h : inEventInstr n k = some i) :
    Laws.tableFormat i = some .epevt ∧ i.accessOnly = true := by
  unfold inEventInstr at h
  split at h <;> cases h <;> exact ⟨rfl, rfl⟩

/-- A decoded bit of the snapshot has a handler, or a row ACK_ONLY and no handler. -/
theorem decodeGintBit_ok {p : Params} {j : Nat} {i : Instr} (h : decodeGintBit p j = .ok i) :
    (∃ f, p.handlerAt j = some f ∧ eventInstr f = some i) ∨ (p.handlerAt j = none ∧ ackOnlyAt j = some i) := by
  unfold decodeGintBit at h
  split at h
  next f hf =>
    split at h <;> cases h
    next he => exact .inl ⟨f, hf, he⟩
  next hf =>
    split at h <;> cases h
    next ha => exact .inr ⟨hf, ha⟩

/-- What the dispatcher decodes is the operation of the next set bit. -/
theorem decodeGint_ok {p : Params} {start : Nat} {w : Word} {i : Instr} (h : decodeGint p start w = .ok i) :
    ∃ j, nextSet w start = some j ∧ decodeGintBit p j = .ok i := by
  unfold decodeGint at h
  split at h
  next j hj => exact ⟨j, hj, h⟩
  next => cases h

/-- What an endpoint handler decodes is the operation of the next inspected set bit. -/
theorem decodeEvents_ok {p : Params} {n : EpNum} {evs : List Field} {instrAt : Nat → Option Instr} {start : Nat}
    {w : Word} {i : Instr} (h : decodeEvents p n evs instrAt start w = .ok i) :
    ∃ k, p.nextEvent n evs w start = some k ∧ instrAt k = some i := by
  unfold decodeEvents at h
  split at h
  next k hk =>
    split at h <;> cases h
    next hi => exact ⟨k, hk, hi⟩
  next => cases h

/-- Where the dispatcher decodes nothing, no bit is left or the next one has neither handler nor row (log 20). -/
theorem decodeGint_error {p : Params} {start : Nat} {w : Word} {e : Reject} (h : decodeGint p start w = .error e) :
    e = .nothingLeft ∨ ∃ j, nextSet w start = some j ∧ e = .unassignedBit j := by
  unfold decodeGint at h
  split at h
  · next j hj =>
    refine .inr ⟨j, hj, ?_⟩
    unfold decodeGintBit at h
    split at h <;> split at h <;> cases h <;> rfl
  · cases h; exact .inl rfl

/-- An endpoint handler decodes nothing only where no inspected bit is left. -/
theorem decodeEvents_error {p : Params} {n : EpNum} {evs : List Field} {instrAt : Nat → Option Instr} {start : Nat}
    {w : Word} {e : Reject} (h : decodeEvents p n evs instrAt start w = .error e) : e = .nothingLeft := by
  unfold decodeEvents at h
  split at h
  · split at h <;> cases h; rfl
  · cases h; rfl

/-! The words of the other formats always decode, to a row of their format. -/

theorem decodeRxsts_format (p : Params) (w : Word) : Laws.tableFormat (decodeRxsts p w) = some .rxsts := by
  simp only [decodeRxsts, decodeRxKind, apply_ite Laws.tableFormat]
  simp only [Laws.tableFormat, ite_self]

theorem decodeSetup_format (p : Params) (S : BitVec 64) : Laws.tableFormat (decodeSetup p S) = some .setup8 := by
  simp only [decodeSetup, apply_ite Laws.tableFormat]
  simp only [Laws.tableFormat, ite_self]

theorem decodeDesc_format (p : Params) (t i : Byte) (len : BitVec 16) :
    Laws.tableFormat (decodeDesc p t i len) = some .setup8 := by
  simp only [decodeDesc, apply_ite Laws.tableFormat]
  simp only [Laws.tableFormat, ite_self]

/-- A decoded operation is a row of the format of its word (R100, R122). -/
theorem decode_format (p : Params) (fw : FetchWord) (i : Instr) (h : decode p fw = .ok i) :
    Laws.tableFormat i = some (Laws.formatOf fw) := by
  cases fw with
  | gint start w =>
    obtain ⟨j, -, hj⟩ := decodeGint_ok h
    rcases decodeGintBit_ok hj with ⟨f, -, hf⟩ | ⟨-, ha⟩
    · exact eventInstr_format hf
    · exact (ackOnlyAt_cases ha).1
  | rxsts w => cases h; exact decodeRxsts_format p w
  | epaggOut w => cases h; rfl
  | epaggIn w => cases h; rfl
  | outEvt n start w =>
    obtain ⟨k, -, hk⟩ := decodeEvents_ok h
    exact (outEventInstr_cases hk).1
  | inEvt n start w =>
    obtain ⟨k, -, hk⟩ := decodeEvents_ok h
    exact (inEventInstr_cases hk).1
  | setup8 S => cases h; exact decodeSetup_format p S
  | desc t ix len => cases h; exact decodeDesc_format p t ix len

/-- A row of the format RXSTS makes no access after the pop, but for RX_SETUP_UPDATE (R202 to R208). -/
theorem rxsts_cases (i : Instr) (hi : Laws.tableFormat i = some .rxsts) :
    i.accessOnly = true ∨ ∃ ep bc dt, i = .rxSetupUpdate ep bc dt := by
  match i, hi with
  | .rxNak _ _ _, _ | .rxDataUpdate _ _ _, _ | .rxXferComplete _ _ _, _ | .rxSetupComplete _ _ _, _
  | .rxReserved _ _ _ _, _ => exact .inl rfl
  | .rxSetupUpdate ep bc dt, _ => exact .inr ⟨ep, bc, dt, rfl⟩

/-- A row of the format SETUP8 makes accesses alone, but for SET_ADDRESS and the GET_DESCRIPTOR rows that are answered
(R224 to R227). -/
theorem setup8_cases (i : Instr) (hi : Laws.tableFormat i = some .setup8) :
    i.accessOnly = true ∨ (∃ a, i = .reqSetAddress a) ∨ (∃ t x len, i = .reqGetDescriptor t x len) ∨
      (∃ x len, i = .getDescriptorDevice x len) ∨ ∃ x len, i = .getDescriptorConfiguration x len := by
  match i, hi with
  | .reqGetStatus, _ | .reqClearFeature, _ | .reqSetFeature, _ | .reqSetDescriptor, _ | .reqGetConfiguration, _
  | .reqSetConfiguration, _ | .reqGetInterface, _ | .reqSetInterface, _ | .reqSynchFrame, _ | .reqUnknown _, _
  | .getDescriptorString, _ | .getDescriptorInterface, _ | .getDescriptorEndpoint, _ | .getDescriptorQualifier, _
  | .getDescriptorOther _, _ => exact .inl rfl
  | .reqSetAddress a, _ => exact .inr (.inl ⟨a, rfl⟩)
  | .reqGetDescriptor t x len, _ => exact .inr (.inr (.inl ⟨t, x, len, rfl⟩))
  | .getDescriptorDevice x len, _ => exact .inr (.inr (.inr (.inl ⟨x, len, rfl⟩)))
  | .getDescriptorConfiguration x len, _ => exact .inr (.inr (.inr (.inr ⟨x, len, rfl⟩)))

end Sys2Proof

namespace Sys2Proof.Machine

/-! ## Operations that make accesses alone -/

theorem OnlyTx.refl (s : State) : OnlyTx s s := rfl

theorem OnlyTx.fieldsWrite (s : State) (r : Reg) (fs : List (Field × Word)) : OnlyTx s (s.fieldsWrite r fs) := rfl

theorem OnlyTx.cont {s t : State} (h : OnlyTx s t) : t.cont = s.cont := by rw [h]

theorem State.performWrites_onlyTx (s : State) (ws : List CfgWrite) : OnlyTx s (s.performWrites ws) := by
  rw [State.performWrites_eq]; rfl

theorem unsupported_onlyTx (s : State) : OnlyTx s (unsupported s) := by
  rw [unsupported_eq]; rfl

/-- Such an operation gives a next state that differs at most in what an access writes. -/
theorem exec_accessOnly (i : Instr) (s : State) (hi : i.accessOnly = true) : ∃ t, exec i s = .next t ∧ OnlyTx s t := by
  match i, hi with
  | .ackOnlyB0, _ | .ackOnlyB2, _ | .ackOnlyB3, _ | .ackOnlyB5, _ | .ackOnlyB6, _ | .ackOnlyB7, _ | .ackOnlyB8, _
  | .ackOnlyB9, _ | .ackOnlyB10, _ | .ackOnlyB11, _ | .ackOnlyB14, _ | .ackOnlyB15, _ | .ackOnlyB16, _
  | .ackOnlyB17, _ | .ackOnlyB20, _ | .ackOnlyB21, _ | .ackOnlyB22, _ | .ackOnlyB23, _ | .ackOnlyB24, _
  | .ackOnlyB25, _ | .ackOnlyB26, _ | .ackOnlyB27, _ | .ackOnlyB28, _ | .ackOnlyB29, _ | .ackOnlyB31, _
  | .oepXfrc _, _ | .oepEpdisd _, _ | .oepOtepdis _, _ | .oepNak _, _ | .iepEpdisd _, _ | .iepNak _, _
  | .rearmOut _, _ => exact ⟨_, rfl, OnlyTx.record s _⟩
  | .rxNak _ _ _, _ | .rxDataUpdate _ _ _, _ | .rxXferComplete _ _ _, _ | .rxSetupComplete _ _ _, _
  | .rxReserved _ _ _ _, _ => exact ⟨_, rfl, OnlyTx.refl s⟩
  | .reqGetStatus, _ | .reqClearFeature, _ | .reqSetFeature, _ | .reqSetDescriptor, _ | .reqGetConfiguration, _
  | .reqSetConfiguration, _ | .reqGetInterface, _ | .reqSetInterface, _ | .reqSynchFrame, _ | .reqUnknown _, _
  | .getDescriptorString, _ | .getDescriptorInterface, _ | .getDescriptorEndpoint, _ | .getDescriptorQualifier, _
  | .getDescriptorOther _, _ | .unsupported, _ => exact ⟨_, rfl, unsupported_onlyTx s⟩
  | .iepXfrc _, _ | .stallEp0, _ | .armSetupOut0, _ =>
    exact ⟨_, rfl, (OnlyTx.record s _).trans (OnlyTx.record _ _)⟩
  | .zlp, _ => exact ⟨_, rfl, writeTx_onlyTx [] 0 s⟩
  | .txabort k, _ => exact ⟨_, rfl, OnlyTx.reportTxAbort s k⟩

/-! ## The busy-waits and the flushes: what holds after whatever follows holds of them (R140 to R142) -/

section Spin
variable {P : State → Prop} {next : State → State} {rest : List Frame} {s : State}

/-- After the read the wanted value, the limit, or one more round. -/
theorem spinOnce_rule {p : SpinPoint} {n : Nat} (hnext : ∀ u, OnlyTx s u → P (next u))
    (hfatal : ∀ u, OnlyTx s u → P (u.raiseFatal .spinTimeout))
    (hwait : ∀ u m, OnlyTx s u → P (u.goTo (.spin p m :: rest))) : P (spinOnce p n next rest s) := by
  have hread : OnlyTx s (s.fieldRead rstCtl p.field) := OnlyTx.fieldRead s rstCtl p.field
  rcases spinOnce_cases p n next rest s with ⟨-, h⟩ | ⟨-, -, h⟩ | ⟨-, -, h⟩ <;> rw [h]
  · exact hnext _ hread
  · exact hfatal _ hread
  · exact hwait _ _ hread

/-! The second half of a flush is one write, then its busy-wait. -/

theorem flushTxRequest_rule (hnext : ∀ u, OnlyTx s u → P (next u))
    (hfatal : ∀ u, OnlyTx s u → P (u.raiseFatal .spinTimeout))
    (hwait : ∀ u m, OnlyTx s u → P (u.goTo (.spin .txDone m :: rest))) : P (flushTxRequest next rest s) :=
  spinOnce_rule (fun u hu => hnext u ((OnlyTx.fieldsWrite s _ _).trans hu))
    (fun u hu => hfatal u ((OnlyTx.fieldsWrite s _ _).trans hu))
    (fun u m hu => hwait u m ((OnlyTx.fieldsWrite s _ _).trans hu))

theorem flushRxRequest_rule (hnext : ∀ u, OnlyTx s u → P (next u))
    (hfatal : ∀ u, OnlyTx s u → P (u.raiseFatal .spinTimeout))
    (hwait : ∀ u m, OnlyTx s u → P (u.goTo (.spin .rxDone m :: rest))) : P (flushRxRequest next rest s) :=
  spinOnce_rule (fun u hu => hnext u ((OnlyTx.fieldsWrite s _ _).trans hu))
    (fun u hu => hfatal u ((OnlyTx.fieldsWrite s _ _).trans hu))
    (fun u m hu => hwait u m ((OnlyTx.fieldsWrite s _ _).trans hu))

theorem flushTx_rule (hnext : ∀ u, OnlyTx s u → P (next u))
    (hfatal : ∀ u, OnlyTx s u → P (u.raiseFatal .spinTimeout))
    (hidle : ∀ u m, OnlyTx s u → P (u.goTo (.spin .txIdle m :: rest)))
    (hdone : ∀ u m, OnlyTx s u → P (u.goTo (.spin .txDone m :: rest))) : P (flushTx next rest s) :=
  spinOnce_rule
    (fun _ hu => flushTxRequest_rule (fun v hv => hnext v (hu.trans hv)) (fun v hv => hfatal v (hu.trans hv))
      (fun v m hv => hdone v m (hu.trans hv)))
    hfatal hidle

theorem flushRx_rule (hnext : ∀ u, OnlyTx s u → P (next u))
    (hfatal : ∀ u, OnlyTx s u → P (u.raiseFatal .spinTimeout))
    (hidle : ∀ u m, OnlyTx s u → P (u.goTo (.spin .rxIdle m :: rest)))
    (hdone : ∀ u m, OnlyTx s u → P (u.goTo (.spin .rxDone m :: rest))) : P (flushRx next rest s) :=
  spinOnce_rule
    (fun _ hu => flushRxRequest_rule (fun v hv => hnext v (hu.trans hv)) (fun v hv => hfatal v (hu.trans hv))
      (fun v m hv => hdone v m (hu.trans hv)))
    hfatal hidle

end Spin

end Sys2Proof.Machine
end

section
/-! PROOFS. The invariant of the state holds right after reset and is kept by every step (R20, R26, R29 to R31, R44, R163,
R304). A place of the sequencer is put above its return place (`State.Inv.push`) or taken off it (`State.Inv.pop`); what an
operation changes beside the position does not matter to the invariant or is one of the few updates named here. -/

namespace Sys2Proof.Machine

/-! ## What the invariant speaks of -/

/-- The part of the state that the invariant reads. -/
def State.invPart (s : State) :
    Mode × List Frame × Bool × Option Cause × List Byte × BitVec 7 × DeviceState × BitVec 7 :=
  (s.seq, s.cont, s.halted, s.fatalCause, s.txbuf, s.txlen, s.devState, s.addr)

theorem OnlyTx.invPart {s t : State} (h : OnlyTx s t) : t.invPart = s.invPart := by rw [h]; rfl

/-- The invariant is a property of that part. -/
theorem State.Inv.congr {s t : State} (h : s.Inv) (he : t.invPart = s.invPart) : t.Inv := by
  simp only [State.invPart, Prod.mk.injEq] at he
  obtain ⟨hseq, hcont, hhalted, hcause, htxbuf, htxlen, hdev, haddr⟩ := he
  constructor
  · rw [htxbuf]; exact h.txbufLength
  · rw [htxlen]; exact h.txlenBound
  · rw [hhalted, hseq]; exact h.haltedMode
  · rw [hcause, hhalted]; exact h.causeNamed
  · rw [hseq, hcont]; exact h.position
  · rw [hcont, hdev]; exact h.resetWaits
  · rw [hseq, hdev, haddr]; exact h.beforeInit

/-- Places put above one position or the other make no difference to it. -/
theorem State.goTo_invPart {s t : State} (h : t.invPart = s.invPart) (fs : List Frame) :
    (t.goTo fs).invPart = (s.goTo fs).invPart := by
  simp_all [State.invPart]

/-! ## Places put above a position and taken off again -/

/-- A place other than the end of IRQ stands above the place that it returns to. -/
theorem standsInPass_cons {f : Frame} {rest : List Frame} (hf : f ≠ .irqExit) (h : standsInPass (f :: rest) = true) :
    ∃ g below, rest = g :: below ∧ f.above g = true ∧ standsInPass rest = true := by
  cases rest with
  | nil => exact absurd (by simpa [standsInPass] using h) hf
  | cons g below =>
    obtain ⟨hfg, hrest⟩ : f.above g = true ∧ standsInPass (g :: below) = true := by simpa [standsInPass] using h
    exact ⟨g, below, rfl, hfg, hrest⟩

/-- The places below a place are less deep. -/
theorem depth_lt_of_mem {f g : Frame} {rest : List Frame} (h : standsInPass (f :: rest) = true) (hg : g ∈ rest) :
    g.depth < f.depth := by
  induction rest generalizing f with
  | nil => cases hg
  | cons k rest ih =>
    obtain ⟨hfk, hrest⟩ : f.above k = true ∧ standsInPass (k :: rest) = true := by simpa [standsInPass] using h
    have hdepth := f.depth_of_above k hfk
    rcases List.mem_cons.mp hg with rfl | hg
    · omega
    · have := ih hrest hg
      omega

/-- A state that stands somewhere is in HANDLER, inside a pass. -/
theorem State.Inv.handler_of_cons {s : State} (h : s.Inv) {f : Frame} {rest : List Frame} (hc : s.cont = f :: rest) :
    s.seq = .handler ∧ standsInPass (f :: rest) = true := by
  have hp := h.position
  rw [hc] at hp
  split at hp
  · next hseq => exact ⟨hseq, hp⟩
  · cases hp

/-- Outside HANDLER the sequencer stands nowhere. -/
theorem State.Inv.cont_eq_nil {s : State} (h : s.Inv) (hseq : s.seq ≠ .handler) : s.cont = [] := by
  simpa [hseq] using h.position

/-- Outside HALTED the block is not halted. -/
theorem State.Inv.running {s : State} (h : s.Inv) (hseq : s.seq ≠ .halted) : s.halted = false := by
  simpa [hseq] using h.haltedMode

/-- The other parts of the invariant do not speak of the position. -/
theorem State.Inv.moveTo {s : State} (h : s.Inv) (hseq : s.seq = .handler) (fs : List Frame)
    (hs : standsInPass fs = true) (hw : .usbResetTail ∈ fs → s.devState = .powered) : ({ s with cont := fs } : State).Inv :=
  ⟨h.txbufLength, h.txlenBound, h.haltedMode, h.causeNamed, by simpa [hseq] using hs, hw, by simp [hseq]⟩

/-- A call: a place put above the one that it returns to. -/
theorem State.Inv.push {s : State} (h : s.Inv) {f g : Frame} {rest : List Frame} (hc : s.cont = f :: rest)
    (hg : g.above f = true) (hw : g = .usbResetTail → s.devState = .powered) : (s.goTo [g]).Inv := by
  obtain ⟨hseq, hs⟩ := h.handler_of_cons hc
  refine h.moveTo hseq (g :: s.cont) (by simp [hc, standsInPass, hg, hs]) fun hmem => ?_
  rcases List.mem_cons.mp hmem with hg | hmem
  · exact hw hg.symm
  · exact h.resetWaits hmem

/-- A return: a place other than the end of IRQ taken off, and the place that then stands innermost. -/
theorem State.Inv.pop {s : State} {f : Frame} (h : (s.goTo [f]).Inv) (hf : f ≠ .irqExit) :
    s.Inv ∧ ∃ g rest, s.cont = g :: rest ∧ f.above g = true := by
  obtain ⟨hseq, hs⟩ := h.handler_of_cons (f := f) (rest := s.cont) rfl
  obtain ⟨g, below, hc, hfg, hrest⟩ := standsInPass_cons hf hs
  exact ⟨h.moveTo hseq s.cont hrest fun hmem => h.resetWaits (List.mem_cons_of_mem _ hmem), g, below, hc, hfg⟩

/-- The places of depth 3 are the acknowledgements of the dispatcher. -/
theorem Frame.eq_ackGint_of_depth {k : Frame} (h : k.depth = 3) : ∃ j, k = .ackGint j := by
  match k, h with
  | .ackGint j, _ => exact ⟨j, rfl⟩

/-- The places of a bit's handler return to the acknowledgement of that bit. -/
theorem State.Inv.popHandler {s : State} {f : Frame} (h : (s.goTo [f]).Inv) (hf : f.depth = 4) :
    s.Inv ∧ ∃ j rest, s.cont = .ackGint j :: rest := by
  obtain ⟨hs, k, rest, hc, hk⟩ := h.pop (by rintro rfl; cases hf)
  have hdepth := f.depth_of_above k hk
  obtain ⟨j, rfl⟩ := k.eq_ackGint_of_depth (by omega)
  exact ⟨hs, j, rest, hc⟩

/-- Taking the exception keeps the invariant (R304). -/
theorem State.Inv.raiseFatal {s : State} (h : s.Inv) (c : Cause) : (s.raiseFatal c).Inv :=
  ⟨h.txbufLength, h.txlenBound, by simp [State.raiseFatal], rfl, rfl, by simp [State.raiseFatal],
    by simp [State.raiseFatal]⟩

/-- In a pass the enumeration state and the address may be written where the tail of EV_USB_RESET does not wait. -/
theorem State.Inv.setContext {s : State} (h : s.Inv) (hseq : s.seq = .handler) (d : DeviceState) (a : BitVec 7)
    (hw : .usbResetTail ∈ s.cont → d = .powered) : ({ s with devState := d, addr := a } : State).Inv :=
  ⟨h.txbufLength, h.txlenBound, h.haltedMode, h.causeNamed, h.position, hw, by simp [hseq]⟩

/-- An operation that makes accesses only keeps the invariant. -/
theorem State.Inv.onlyTx {s t : State} (h : s.Inv) (ht : OnlyTx s t) : t.Inv := h.congr ht.invPart

/-- So does one after which the sequencer stands at further places. -/
theorem State.Inv.goTo_onlyTx {s t : State} {fs : List Frame} (h : (s.goTo fs).Inv) (ht : OnlyTx s t) : (t.goTo fs).Inv :=
  h.congr (State.goTo_invPart ht.invPart fs)

/-- Executing such an operation keeps the invariant. -/
theorem exec_accessOnly_inv {i : Instr} {s t : State} (h : s.Inv) (hi : i.accessOnly = true)
    (ht : exec i s = .next t) : t.Inv := by
  obtain ⟨u, hu, hsu⟩ := exec_accessOnly i s hi
  cases hu.symm.trans ht
  exact h.onlyTx hsu

/-! ## The flushes, by the rules of the busy-waits -/

section Flush
variable {s : State} {next : State → State} {rest : List Frame} (h : s.Inv)
  (hnext : ∀ u, OnlyTx s u → (next u).Inv)
include h hnext

theorem spinOnce_inv {p : SpinPoint} {n : Nat} (hwait : ∀ m, (s.goTo (.spin p m :: rest)).Inv) :
    (spinOnce p n next rest s).Inv :=
  spinOnce_rule hnext (fun _ hu => (h.onlyTx hu).raiseFatal _) (fun _ m hu => (hwait m).goTo_onlyTx hu)

theorem flushTxRequest_inv (hdone : ∀ m, (s.goTo (.spin .txDone m :: rest)).Inv) : (flushTxRequest next rest s).Inv :=
  flushTxRequest_rule hnext (fun _ hu => (h.onlyTx hu).raiseFatal _) (fun _ m hu => (hdone m).goTo_onlyTx hu)

theorem flushRxRequest_inv (hdone : ∀ m, (s.goTo (.spin .rxDone m :: rest)).Inv) : (flushRxRequest next rest s).Inv :=
  flushRxRequest_rule hnext (fun _ hu => (h.onlyTx hu).raiseFatal _) (fun _ m hu => (hdone m).goTo_onlyTx hu)

theorem flushTx_inv (hidle : ∀ m, (s.goTo (.spin .txIdle m :: rest)).Inv)
    (hdone : ∀ m, (s.goTo (.spin .txDone m :: rest)).Inv) : (flushTx next rest s).Inv :=
  flushTx_rule hnext (fun _ hu => (h.onlyTx hu).raiseFatal _) (fun _ m hu => (hidle m).goTo_onlyTx hu)
    (fun _ m hu => (hdone m).goTo_onlyTx hu)

theorem flushRx_inv (hidle : ∀ m, (s.goTo (.spin .rxIdle m :: rest)).Inv)
    (hdone : ∀ m, (s.goTo (.spin .rxDone m :: rest)).Inv) : (flushRx next rest s).Inv :=
  flushRx_rule hnext (fun _ hu => (h.onlyTx hu).raiseFatal _) (fun _ m hu => (hidle m).goTo_onlyTx hu)
    (fun _ m hu => (hdone m).goTo_onlyTx hu)

end Flush

/-! ## Each place of the sequencer -/

variable {s t : State}

/-- A decoding place executes the operation decoded, or goes on without one. -/
theorem decodeExec_next_cases {fw : FetchWord} (h : s.decodeExec fw = .next t) :
    (∃ i, decode s.par fw = .ok i ∧ exec i (s.enter fw) = .next t) ∨
    ∃ e, decode s.par fw = .error e ∧ t = s.afterReject fw e := by
  unfold State.decodeExec at h
  split at h
  · next i hi => exact .inl ⟨i, hi, h⟩
  · next e he => cases h; exact .inr ⟨e, he, rfl⟩

/-! ### The handlers of the dispatcher's bits, at the acknowledgement they return to -/

section Event
variable {j : Nat} {rest : List Frame} (h : s.Inv) (hc : s.cont = .ackGint j :: rest)
include h hc

/-- No EV_USB_RESET waits below the acknowledgement of a bit, so the enumeration state may be written. -/
theorem ackGint_setContext (d : DeviceState) (a : BitVec 7) : ({ s with devState := d, addr := a } : State).Inv := by
  obtain ⟨hseq, hs⟩ := h.handler_of_cons hc
  refine h.setContext hseq d a fun hmem => ?_
  rcases List.mem_cons.mp (hc ▸ hmem) with heq | hmem
  · cases heq
  · have := depth_lt_of_mem hs hmem
    simp [Frame.depth] at this

/-- EV_SESSION (R161). -/
theorem evSession_inv : (evSession s).Inv := by
  have hread : OnlyTx s (s.fieldRead (.glob .otgCtl) .bSessionValid) := OnlyTx.fieldRead _ _ _
  simp only [evSession]
  split_ifs
  · exact h.onlyTx hread
  · exact h.onlyTx hread
  · exact (ackGint_setContext h hc .powered s.addr).congr (by simp [State.invPart])

/-- EV_ENUM_DONE (R166). -/
theorem evEnumDone_inv : (evEnumDone s).Inv := by
  unfold evEnumDone
  split_ifs
  · exact h
  · exact (ackGint_setContext h hc .defaultAddress s.addr).congr (by simp [State.performWrites_eq, State.invPart])

/-- The end of EV_USB_RESET writes the state last (R163). -/
theorem usbResetTail_inv : (usbResetTail s).Inv :=
  (ackGint_setContext h hc .resettingBus 0).congr (by simp [usbResetTail, armSetupOut0, rearmOut, State.invPart])

/-- The places of EV_USB_RESET stand above the acknowledgement only while the state is Powered. -/
theorem evUsbReset_inv : (evUsbReset s).Inv := by
  unfold evUsbReset
  split_ifs with hdev
  · exact h
  · have hwrites := s.performWrites_onlyTx s.par.resetMaskWrites
    have htail : (s.goTo [.usbResetTail]).Inv := h.push hc rfl fun _ => not_not.mp hdev
    have hflush : (s.goTo [.flushRx, .usbResetTail]).Inv := htail.push rfl (g := .flushRx) rfl nofun
    refine flushTx_inv (h.onlyTx hwrites) (fun u hu => ?_)
      (fun m => State.Inv.goTo_onlyTx (hflush.push rfl (g := .spin .txIdle m) rfl nofun) hwrites)
      (fun m => State.Inv.goTo_onlyTx (hflush.push rfl (g := .spin .txDone m) rfl nofun) hwrites)
    have hsu := hwrites.trans hu
    refine flushRx_inv (h.onlyTx hsu) (fun v hv => ?_)
      (fun m => State.Inv.goTo_onlyTx (htail.push rfl (g := .spin .rxIdle m) rfl nofun) hsu)
      (fun m => State.Inv.goTo_onlyTx (htail.push rfl (g := .spin .rxDone m) rfl nofun) hsu)
    have hsv := hsu.trans hv
    exact usbResetTail_inv (h.onlyTx hsv) (hsv.cont.trans hc)

/-- Whatever the handler of a bit does, it keeps the invariant. -/
theorem event_inv (f : Field) (i : Instr) (hi : eventInstr f = some i) (ht : exec i s = .next t) : t.Inv := by
  unfold eventInstr at hi
  split at hi <;> cases hi
  · cases ht; exact h.raiseFatal _
  · cases ht; exact (h.push hc (g := .rxDecode) rfl nofun).congr (by simp [State.invPart])
  · cases ht; exact evUsbReset_inv h hc
  · cases ht; exact evEnumDone_inv h hc
  · cases ht; exact (h.push hc (g := .inDecode) rfl nofun).congr (by simp [State.invPart])
  · cases ht; exact (h.push hc (g := .outDecode) rfl nofun).congr (by simp [State.invPart])
  · cases ht; exact evSession_inv h hc

end Event

/-! ### The loop of the dispatcher -/

/-- The loop of the dispatcher returns to the end of IRQ. -/
theorem Frame.eq_of_scan_above {start : Nat} {k : Frame} (h : (Frame.scan start).above k = true) : k = .irqExit := by
  match k, h with
  | .irqExit, _ => rfl

/-- The acknowledgement of bit `j` returns to the loop above that bit. -/
theorem Frame.ackGint_above_scan (j start : Nat) :
    (Frame.ackGint j).above (.scan start) = (decide (start = j + 1) && decide (j < 32)) := rfl

/-- The dispatcher goes on above the bit being served, which is one of the 32. -/
theorem scanNext_inv {start j : Nat} (h : (s.goTo [.scan start]).Inv) (hj : nextSet s.snap start = some j) :
    j < 32 ∧ (s.goTo [.scan (j + 1)]).Inv := by
  obtain ⟨-, hj, -⟩ := (nextSet_eq_some_iff _ _ _).mp hj
  obtain ⟨hs, k, rest, hc, hk⟩ := h.pop nofun
  rw [Frame.eq_of_scan_above hk] at hc
  exact ⟨hj, hs.push hc (decide_eq_true hj) nofun⟩

/-- While a handled bit is served, its acknowledgement stands below the handler (R181). -/
theorem scanPlaces_handled {p : Params} {j : Nat} {f : Field} (h : p.handlerAt j = some f) :
    scanPlaces p j = [.ackGint j, .scan (j + 1)] := by simp [scanPlaces, h]

/-- A bit without handler is acknowledged by its own operation (R184). -/
theorem scanPlaces_unhandled {p : Params} {j : Nat} (h : p.handlerAt j = none) :
    scanPlaces p j = [.scan (j + 1)] := by simp [scanPlaces, h]

/-- The loop of DISPATCH (R181). -/
theorem resume_scan_inv {start : Nat} (h : (s.goTo [.scan start]).Inv) (ht : resume (.scan start) s = .next t) :
    t.Inv := by
  obtain ⟨hs, -⟩ := h.pop nofun
  rcases decodeExec_next_cases ht with ⟨i, hi, ht⟩ | ⟨e, he, rfl⟩
  · obtain ⟨j, hj, hbit⟩ := decodeGint_ok hi
    obtain ⟨hj32, hscan⟩ := scanNext_inv h hj
    simp only [State.enter, hj] at ht
    rcases decodeGintBit_ok hbit with ⟨f, hf, hev⟩ | ⟨hf, hrow⟩
    · rw [scanPlaces_handled hf] at ht
      have hack : (s.goTo [.ackGint j, .scan (j + 1)]).Inv :=
        hscan.push rfl (g := .ackGint j) (by simp [Frame.ackGint_above_scan, hj32]) nofun
      have hentered : (({ s with idx := idxOf j } : State).goTo [.ackGint j, .scan (j + 1)]).Inv := hack.congr rfl
      exact event_inv hentered rfl f i hev ht
    · rw [scanPlaces_unhandled hf] at ht
      have hentered : (({ s with idx := idxOf j } : State).goTo [.scan (j + 1)]).Inv := hscan.congr rfl
      exact exec_accessOnly_inv hentered (ackOnlyAt_cases hrow).2 ht
  · rcases decodeGint_error he with rfl | ⟨j, hj, rfl⟩
    · exact hs.congr rfl
    · exact (scanNext_inv h hj).2.congr rfl

/-! ### The places of the handlers -/

/-- The case over the kind of a receive status word (R201). -/
theorem resume_rxDecode_inv (h : (s.goTo [.rxDecode]).Inv) (ht : resume .rxDecode s = .next t) : t.Inv := by
  obtain ⟨hs, -⟩ := h.pop nofun
  have ht : exec (decodeRxsts s.par s.rxw) s = .next t := ht
  rcases rxsts_cases _ (decodeRxsts_format s.par s.rxw) with hi | ⟨ep, bc, dt, hi⟩
  · exact exec_accessOnly_inv hs hi ht
  · rw [hi] at ht
    cases ht
    unfold rxSetupUpdate
    split_ifs
    · exact hs.raiseFatal _
    · exact hs.raiseFatal _
    · exact hs.congr (by simp [copySetup, State.invPart])

/-- The OUT handler after the aggregate word (R250). -/
theorem resume_outDecode_inv (h : (s.goTo [.outDecode]).Inv) (ht : resume .outDecode s = .next t) : t.Inv := by
  obtain ⟨hs, j, rest, hc⟩ := h.popHandler rfl
  have ht : execEpaggOut (s.par.extract .outPending 16 s.agg) s = .next t := ht
  cases ht
  unfold epaggOut
  split
  · exact hs
  · exact (hs.push hc (g := .outEvents 0) rfl nofun).congr (by simp [State.invPart])

/-- The IN handler after the aggregate word (R255). -/
theorem resume_inDecode_inv (h : (s.goTo [.inDecode]).Inv) (ht : resume .inDecode s = .next t) : t.Inv := by
  obtain ⟨hs, j, rest, hc⟩ := h.popHandler rfl
  have ht : execEpaggIn (s.par.extract .inPending 16 s.agg) s = .next t := ht
  cases ht
  unfold epaggIn
  split
  · exact hs
  · exact (hs.push hc (g := .inEvents 0) rfl nofun).congr (by simp [State.invPart])

/-- The inspection of an OUT event word: STUP calls the endpoint-0 protocol (R250, R252). -/
theorem resume_outEvents_inv {start : Nat} (h : (s.goTo [.outEvents start]).Inv)
    (ht : resume (.outEvents start) s = .next t) : t.Inv := by
  obtain ⟨hs, j, rest, hc⟩ := h.popHandler rfl
  rcases decodeExec_next_cases ht with ⟨i, hi, ht⟩ | ⟨e, he, rfl⟩
  · obtain ⟨k, hk, hki⟩ := decodeEvents_ok hi
    simp only [State.enter, hk] at ht
    have hnext : (s.goTo [.outEvents (k + 1)]).Inv := hs.push hc rfl nofun
    rcases (outEventInstr_cases hki).2 with rfl | hi
    · cases ht
      unfold oepStup
      split_ifs
      · exact hnext.raiseFatal _
      · exact (hnext.push rfl (g := .ackStup) rfl nofun).push rfl (g := .setupDecode) rfl nofun
    · exact exec_accessOnly_inv hnext hi ht
  · rw [decodeEvents_error he]
    exact hs

/-- The inspection of an IN event word (R255). -/
theorem resume_inEvents_inv {start : Nat} (h : (s.goTo [.inEvents start]).Inv)
    (ht : resume (.inEvents start) s = .next t) : t.Inv := by
  obtain ⟨hs, j, rest, hc⟩ := h.popHandler rfl
  rcases decodeExec_next_cases ht with ⟨i, hi, ht⟩ | ⟨e, he, rfl⟩
  · obtain ⟨k, hk, hki⟩ := decodeEvents_ok hi
    simp only [State.enter, hk] at ht
    have hnext : (s.goTo [.inEvents (k + 1)]).Inv := hs.push hc rfl nofun
    exact exec_accessOnly_inv hnext (inEventInstr_cases hki).2 ht
  · rw [decodeEvents_error he]
    exact hs

/-! ### The endpoint-0 protocol -/

/-- SET_ADDRESS in a pass. -/
theorem reqSetAddress_inv (h : s.Inv) (hseq : s.seq = .handler) (a : BitVec 7) : (reqSetAddress a s).Inv := by
  unfold reqSetAddress
  split_ifs
  · exact h.raiseFatal _
  · exact ((h.setContext hseq s.devState a h.resetWaits).congr (t := { s.fieldsWrite _ _ with addr := a }) rfl).onlyTx
      (writeTx_onlyTx [] 0 _)

/-- Staging keeps the 64 bytes of the buffer, and at most 64 bytes are staged (R26, R225). -/
theorem sendDescriptor_inv (h : s.Inv) (bytes : List Byte) (n : Nat) (hb : n ≤ bytes.length) (hn : n ≤ txbufCap) :
    (sendDescriptor bytes n s).Inv := by
  have hlen : (stageBytes s.txbuf bytes n).length = txbufCap := by
    rw [stageBytes_length _ _ _ hb (h.txbufLength ▸ hn), h.txbufLength]
  have htxlen : (BitVec.ofNat 7 n).toNat ≤ txbufCap := by
    rw [BitVec.toNat_ofNat]
    exact (Nat.mod_le _ _).trans hn
  have hstaged : ({ s with txbuf := stageBytes s.txbuf bytes n, txlen := BitVec.ofNat 7 n } : State).Inv :=
    ⟨hlen, htxlen, h.haltedMode, h.causeNamed, h.position, h.resetWaits, h.beforeInit⟩
  exact hstaged.onlyTx (writeTx_onlyTx _ n _)

/-- A descriptor of an accepted table fits the buffer (R222 (a)). -/
theorem getDescriptor_inv (h : s.Inv) (hwf : s.par.wf = true) (ty ix : Byte) (len : BitVec 16) :
    (getDescriptor ty ix len s).Inv := by
  have hlookup : (s.descLookup ty ix).Inv := h.onlyTx (OnlyTx.record s _)
  unfold getDescriptor
  split
  · next bytes hd =>
    have hcap := s.par.desc_length hwf ty ix bytes hd
    dsimp only
    split_ifs
    · exact sendDescriptor_inv hlookup bytes _ (Nat.min_le_left _ _) ((Nat.min_le_left _ _).trans hcap)
    · exact hlookup.onlyTx (unsupported_onlyTx _)
  · exact hlookup.onlyTx (unsupported_onlyTx _)

/-- An operation of the endpoint-0 protocol, with the acknowledgement that it returns to innermost. -/
theorem setup8_inv (h : s.Inv) (hwf : s.par.wf = true) {rest : List Frame} (hc : s.cont = .ackStup :: rest) (i : Instr)
    (hi : Laws.tableFormat i = some .setup8) (ht : exec i s = .next t) : t.Inv := by
  rcases setup8_cases i hi with hi | ⟨a, rfl⟩ | ⟨ty, ix, len, rfl⟩ | ⟨ix, len, rfl⟩ | ⟨ix, len, rfl⟩
  · exact exec_accessOnly_inv h hi ht
  · cases ht
    exact reqSetAddress_inv h (h.handler_of_cons hc).1 a
  · cases ht
    exact h.push hc rfl nofun
  · cases ht
    exact getDescriptor_inv h hwf _ ix len
  · cases ht
    exact getDescriptor_inv h hwf _ ix len

/-- The endpoint-0 protocol returns to the acknowledgement of STUP (R252). -/
theorem Frame.eq_of_setupDecode_above {k : Frame} (h : Frame.setupDecode.above k = true) : k = .ackStup := by
  match k, h with
  | .ackStup, _ => rfl

/-- GET_DESCRIPTOR returns there too. -/
theorem Frame.eq_of_descDecode_above {ty ix : Byte} {len : BitVec 16} {k : Frame}
    (h : (Frame.descDecode ty ix len).above k = true) : k = .ackStup := by
  match k, h with
  | .ackStup, _ => rfl

/-- The case over the request byte (R223). -/
theorem resume_setupDecode_inv (h : (s.goTo [.setupDecode]).Inv) (hwf : s.par.wf = true)
    (ht : resume .setupDecode s = .next t) : t.Inv := by
  obtain ⟨hs, k, rest, hc, hk⟩ := h.pop nofun
  rw [Frame.eq_of_setupDecode_above hk] at hc
  exact setup8_inv hs hwf hc _ (decodeSetup_format s.par s.setup) ht

/-- The selection of the sub-operation of GET_DESCRIPTOR (R225). -/
theorem resume_descDecode_inv {ty ix : Byte} {len : BitVec 16} (h : (s.goTo [.descDecode ty ix len]).Inv)
    (hwf : s.par.wf = true) (ht : resume (.descDecode ty ix len) s = .next t) : t.Inv := by
  obtain ⟨hs, k, rest, hc, hk⟩ := h.pop nofun
  rw [Frame.eq_of_descDecode_above hk] at hc
  exact setup8_inv hs hwf hc _ (decodeDesc_format s.par ty ix len) ht

/-! ### The busy-waits and the rest of EV_USB_RESET -/

/-- The place to which a busy-wait of EV_USB_RESET returns (R163). -/
def SpinPoint.returnsTo : SpinPoint → Frame
  | .txIdle | .txDone => .flushRx
  | .rxIdle | .rxDone => .usbResetTail

/-- A busy-wait stands above the place it returns to and above no other. -/
theorem Frame.spin_above_iff (p : SpinPoint) (n : Nat) (k : Frame) : (Frame.spin p n).above k = true ↔ k = p.returnsTo := by
  constructor
  · intro h
    match p, k, h with
    | .txIdle, .flushRx, _ | .txDone, .flushRx, _ | .rxIdle, .usbResetTail, _ | .rxDone, .usbResetTail, _ => rfl
  · rintro rfl
    cases p <;> rfl

/-- One more repetition of a busy-wait (R140). -/
theorem resumeSpin_inv {p : SpinPoint} {n : Nat} (h : (s.goTo [.spin p n]).Inv) : (resumeSpin p n s).Inv := by
  obtain ⟨hs, k, rest, hc, hk⟩ := h.pop nofun
  rw [Frame.spin_above_iff] at hk
  have hwait : ∀ q m, q.returnsTo = p.returnsTo → (s.goTo [.spin q m]).Inv := fun q m hq =>
    hs.push hc ((Frame.spin_above_iff q m k).mpr (hk.trans hq.symm)) nofun
  have hdone : ∀ u, OnlyTx s u → (id u).Inv := fun u hu => hs.onlyTx hu
  cases p with
  | txIdle =>
    exact spinOnce_inv hs (fun u hu => flushTxRequest_inv (hs.onlyTx hu) (fun v hv => hdone v (hu.trans hv))
      fun m => (hwait .txDone m rfl).goTo_onlyTx hu) fun m => hwait .txIdle m rfl
  | txDone => exact spinOnce_inv hs hdone fun m => hwait .txDone m rfl
  | rxIdle =>
    exact spinOnce_inv hs (fun u hu => flushRxRequest_inv (hs.onlyTx hu) (fun v hv => hdone v (hu.trans hv))
      fun m => (hwait .rxDone m rfl).goTo_onlyTx hu) fun m => hwait .rxIdle m rfl
  | rxDone => exact spinOnce_inv hs hdone fun m => hwait .rxDone m rfl

/-- The second flush returns to the end of EV_USB_RESET (R163). -/
theorem Frame.eq_of_flushRx_above {k : Frame} (h : Frame.flushRx.above k = true) : k = .usbResetTail := by
  match k, h with
  | .usbResetTail, _ => rfl

/-- The call of FLUSH_RX in EV_USB_RESET (R163). -/
theorem resume_flushRx_inv (h : (s.goTo [.flushRx]).Inv) (ht : resume .flushRx s = .next t) : t.Inv := by
  obtain ⟨hs, k, rest, hc, hk⟩ := h.pop nofun
  rw [Frame.eq_of_flushRx_above hk] at hc
  cases ht
  exact flushRx_inv hs (fun u hu => hs.onlyTx hu) (fun m => hs.push hc rfl nofun) fun m => hs.push hc rfl nofun

/-! ### All places -/

/-- The end of IRQ is the lowest place: below it the sequencer stands nowhere (R284). -/
theorem irqExit_inv (h : (s.goTo [.irqExit]).Inv) : (irqExit s).Inv := by
  obtain ⟨hseq, hs⟩ := h.handler_of_cons (f := .irqExit) (rest := s.cont) rfl
  have hc : s.cont = [] := List.length_eq_zero_iff.mp (Nat.succ.inj (length_of_standsInPass _ _ hs))
  have hrun : s.halted = false := h.running (hseq ▸ nofun)
  exact ⟨h.txbufLength, h.txlenBound, by simp [irqExit, hrun], h.causeNamed, by simpa [irqExit] using hc,
    by simp [irqExit, hc], by simp [irqExit]⟩

/-- Whatever stands next, one step there keeps the invariant. -/
theorem resume_inv {f : Frame} (h : (s.goTo [f]).Inv) (hwf : s.par.wf = true) (ht : resume f s = .next t) : t.Inv := by
  cases f with
  | scan start => exact resume_scan_inv h ht
  | ackGint j => cases ht; exact (h.pop nofun).1.onlyTx (OnlyTx.record s _)
  | irqExit => cases ht; exact irqExit_inv h
  | rxDecode => exact resume_rxDecode_inv h ht
  | outDecode => exact resume_outDecode_inv h ht
  | inDecode => exact resume_inDecode_inv h ht
  | outEvents start => exact resume_outEvents_inv h ht
  | inEvents start => exact resume_inEvents_inv h ht
  | setupDecode => exact resume_setupDecode_inv h hwf ht
  | descDecode ty ix len => exact resume_descDecode_inv h hwf ht
  | ackStup => cases ht; exact (h.pop nofun).1.onlyTx (OnlyTx.record s _)
  | spin p n => cases ht; exact resumeSpin_inv h
  | flushRx => exact resume_flushRx_inv h ht
  | usbResetTail =>
    cases ht
    obtain ⟨hs, j, rest, hc⟩ := h.popHandler rfl
    exact usbResetTail_inv hs hc

/-! ## The host's calls and the step -/

/-- A state at the reset values is legal (R45). -/
theorem State.AtReset.inv (h : t.AtReset) : t.Inv := by
  obtain ⟨hseq, hcont, hhalted, hcause, -, hdev, haddr, htxlen, -, htxbuf⟩ := h
  exact ⟨htxbuf, by simp [htxlen], by simp [hseq, hhalted], by simp [hcause, hhalted], by simp [hseq, hcont],
    by simp [hcont], fun _ => ⟨hdev, haddr⟩⟩

/-- RESET leaves the reset values (R340). -/
theorem State.resetBlock_atReset (s : State) : s.resetBlock.AtReset :=
  ⟨rfl, rfl, rfl, rfl, rfl, rfl, rfl, rfl, rfl, Vector.length_toList⟩

/-- Settles O18: right after reset the block is at the reset values, and those are legal. -/
theorem invAtReset : Obligations.InvAtReset :=
  State.AtReset.inv ⟨rfl, rfl, rfl, rfl, rfl, rfl, rfl, rfl, rfl, rfl⟩

/-- INIT in PRE_INIT, and where it is ignored (R281, R283). -/
theorem execInit_inv (h : s.Inv) (v : Bool) (ht : exec (.init v) s = .next t) : t.Inv := by
  cases ht
  split_ifs with hseq
  · have hcont : s.cont = [] := h.cont_eq_nil (by simp [hseq])
    have hrun : s.halted = false := h.running (by simp [hseq])
    refine State.Inv.congr (s := { s with seq := .idle, devState := .uninitialized, addr := 0, txlen := 0 }) ?_ ?_
    · exact ⟨h.txbufLength, by simp, by simp [hrun], h.causeNamed, by simpa using hcont, by simp [hcont], by simp⟩
    · simp [initBody, State.performWrites_eq, State.invPart]
  · exact h

/-- IRQ in IDLE, and where it is ignored (R283, R284). -/
theorem execIrq_inv (h : s.Inv) (ht : exec .irq s = .next t) : t.Inv := by
  cases ht
  split_ifs with hseq
  · have hcont : s.cont = [] := h.cont_eq_nil (by simp [hseq])
    have hrun : s.halted = false := h.running (by simp [hseq])
    refine State.Inv.congr (s := { s with seq := .handler, cont := [.scan 0, .irqExit] }) ?_ ?_
    · exact ⟨h.txbufLength, h.txlenBound, by simp [hrun], h.causeNamed, rfl, by simp, by simp⟩
    · simp [irqBody, dispatch, State.invPart, hcont]
  · exact h

/-- The sequencer's step: a host call, a place, or a wait. -/
theorem advance_inv (h : s.Inv) (hwf : s.par.wf = true) (ht : s.advance = .next t) : t.Inv := by
  rcases advance_next_cases s t ht with
    ⟨cs, -, ht⟩ | ⟨v, cs, -, ht⟩ | ⟨f, rest, hc, ht⟩ | ⟨cs, -, -, ht⟩ | ⟨-, -, -, rfl⟩
  · cases ht
    exact (State.resetBlock_atReset _).inv
  · exact execInit_inv (s := { s with calls := cs }) (h.congr rfl) v ht
  · exact resume_inv (s := { s with cont := rest }) (h.congr (by simp [State.invPart, hc])) hwf ht
  · exact execIrq_inv (s := { s with calls := cs }) (h.congr rfl) ht
  · exact h

/-- A step under the reset input ends in the reset state, or the input waits on (R340). -/
theorem advanceToReset_inv (h : s.Inv) (hwf : s.par.wf = true) (k : Nat) (ht : s.advanceToReset k = .next t) : t.Inv := by
  unfold State.advanceToReset at ht
  split at ht
  · next u hu =>
    split at ht <;> cases ht
    · exact (State.resetBlock_atReset _).inv
    · exact (advance_inv h hwf hu).congr rfl
  · cases ht
    exact (State.resetBlock_atReset _).inv
  · cases ht

/-- Settles O19: a step is the sequencer's, with or without the reset input, and both keep the invariant. -/
theorem stepKeepsInv : Obligations.StepKeepsInv := by
  intro s t h ht
  have hwf := step_next_wf s t ht
  rw [step_of_wf s hwf] at ht
  unfold State.sequence at ht
  split at ht
  · exact advance_inv h hwf ht
  · exact advanceToReset_inv h hwf _ ht

end Sys2Proof.Machine
end

section
/-! PROOFS. The calls of the platform host, and where a step stops (R31, R117, R283, R285, R286, R302, R340). -/

namespace Sys2Proof.Machine

/-! ## Reset and the calls of the platform host -/

/-- Settles O25: RESET leaves the reset values, and what is not the block's as it is. -/
theorem resetLeavesResetState : Obligations.ResetLeavesResetState := by
  intro s
  obtain ⟨hseq, hcont, hhalted, hcause, hstatus, hdev, haddr, htxlen, hvbus, htxbuf⟩ := s.resetBlock_atReset
  exact ⟨s.resetBlock, rfl, hseq, hcont, hhalted, hcause, hstatus, hdev, haddr, htxlen, hvbus, htxbuf,
    rfl, rfl, rfl, rfl, rfl, rfl⟩

/-- Where the sequencer stands nowhere and no call is pending, the block waits, or is halted (R31). -/
theorem advance_idle (s : State) (hcalls : s.calls = []) (hcont : s.cont = []) :
    s.advance = if s.seq = .halted then .fault (.halted s.fatalCause) else .next s := by
  simp [State.advance, State.proceed, hcalls, hcont]

/-- Settles O14: with no reset input a step is `advance`, which looks at the first call. -/
theorem stepTakesHostCalls : Obligations.StepTakesHostCalls := by
  intro s cs hwf hreset
  rw [step_of_no_reset s hwf hreset]
  refine ⟨fun hc => ?_, fun v hc => ?_, fun hc hcont => ?_, fun hc hcont hseq => ?_, fun hc hcont hseq => ?_⟩
  · simp [State.advance, hc]
  · simp [State.advance, hc]
  · simp [State.advance, State.proceed, hc, hcont]
  · simp [advance_idle s hc hcont, hseq]
  · simp [advance_idle s hc hcont, hseq]

/-! ## Where a step stops (R31, R117, R302) -/

/-- Every operation but WRITE_TX gives a next state, whatever its operands and the state are. -/
theorem exec_next (i : Instr) (s : State) (hi : ∀ data len, i ≠ .writeTx data len) : ∃ t, exec i s = .next t := by
  cases i with
  | writeTx data len => exact absurd rfl (hi data len)
  | _ => exact ⟨_, rfl⟩

/-- WRITE_TX has no word, so no decoder gives it. -/
theorem decode_ne_writeTx (p : Params) (fw : FetchWord) (i : Instr) (h : decode p fw = .ok i) (data : List Byte)
    (len : BitVec 16) : i ≠ .writeTx data len := by
  rintro rfl
  cases decode_format p fw _ h

/-- A decoding place goes on, whatever its word is. -/
theorem decodeExec_next (s : State) (fw : FetchWord) : ∃ t, s.decodeExec fw = .next t := by
  unfold State.decodeExec
  split
  · next i hi => exact exec_next i _ (decode_ne_writeTx _ _ i hi)
  · exact ⟨_, rfl⟩

/-- So does every other place. -/
theorem resume_next (f : Frame) (s : State) : ∃ t, resume f s = .next t := by
  unfold resume
  split
  · exact decodeExec_next s _
  · split <;> exact ⟨_, rfl⟩

/-- The sequencer goes on, but for a halted block that stands nowhere and has no call to serve. -/
theorem advance_next_or_halted (s : State) :
    (∃ t, s.advance = .next t) ∨
    (s.seq = .halted ∧ s.cont = [] ∧ s.calls = [] ∧ s.advance = .fault (.halted s.fatalCause)) := by
  unfold State.advance
  split
  · exact .inl ⟨_, rfl⟩
  · exact .inl ⟨_, rfl⟩
  · next hreset hinit =>
    unfold State.proceed
    split
    · exact .inl (resume_next _ _)
    · next hcont =>
      split
      · exact .inl ⟨_, rfl⟩
      · next hirq =>
        split_ifs with hseq
        · have hcalls : s.calls = [] := by
            match hc : s.calls with
            | [] => rfl
            | .reset :: cs => exact absurd hc (hreset cs)
            | .init v :: cs => exact absurd hc (hinit v cs)
            | .irq :: cs => exact absurd hc (hirq cs)
          exact .inr ⟨hseq, hcont, hcalls, rfl⟩
        · exact .inl ⟨_, rfl⟩

/-- The reset input leads on from everywhere: out of a halted block too (R305). -/
theorem advanceToReset_next (s : State) (k : Nat) : ∃ t, s.advanceToReset k = .next t := by
  unfold State.advanceToReset
  rcases advance_next_or_halted s with ⟨t, ht⟩ | ⟨-, -, -, hfault⟩
  · rw [ht]
    dsimp only
    split_ifs <;> exact ⟨_, rfl⟩
  · rw [hfault]
    exact ⟨_, rfl⟩

/-- Settles O16: the sequencer stops in a halted block with nothing to do alone, and there the reset input leads on. -/
theorem stepStopsOnlyWhenHalted : Obligations.StepStopsOnlyWhenHalted := by
  intro s hwf
  cases hreset : s.resetIn with
  | none =>
    rw [step_of_no_reset s hwf hreset]
    rcases advance_next_or_halted s with hnext | ⟨hseq, hcont, hcalls, hfault⟩
    · exact .inl hnext
    · exact .inr ⟨hseq, hcont, hcalls, rfl, hfault⟩
  | some k =>
    rw [step_of_wf s hwf]
    simp only [State.sequence, hreset]
    exact .inl (advanceToReset_next s k)

end Sys2Proof.Machine
end

section
/-! PROOFS. Which operations write the context (R20, R22, R28, R169), and the report of an abort (R306). -/

namespace Sys2Proof

/-- The operations that write the enumeration state, the address, the VBUS flag, the setup packet or the speed. -/
def Instr.writesContext : Instr → Bool
  | .reset | .init _ | .evSession | .evUsbReset | .evEnumDone | .reqSetAddress _ | .rxSetupUpdate _ _ _ => true
  | _ => false

end Sys2Proof

namespace Sys2Proof.Machine

/-- `t` has the enumeration state, the address, the VBUS flag, the setup packet and the speed of `s`. -/
structure SameContext (s t : State) : Prop where
  devState : t.devState = s.devState
  addr : t.addr = s.addr
  vbusSense : t.vbusSense = s.vbusSense
  setup : t.setup = s.setup
  speed : t.speed = s.speed

theorem OnlyTx.sameContext {s t : State} (h : OnlyTx s t) : SameContext s t := by
  rw [h]; exact ⟨rfl, rfl, rfl, rfl, rfl⟩

theorem SameContext.trans {s t u : State} (h : SameContext s t) (h' : SameContext t u) : SameContext s u :=
  ⟨h'.devState.trans h.devState, h'.addr.trans h.addr, h'.vbusSense.trans h.vbusSense, h'.setup.trans h.setup,
    h'.speed.trans h.speed⟩

theorem State.raiseFatal_sameContext (s : State) (c : Cause) : SameContext s (s.raiseFatal c) := ⟨rfl, rfl, rfl, rfl, rfl⟩

theorem State.goTo_sameContext (s : State) (fs : List Frame) : SameContext s (s.goTo fs) := ⟨rfl, rfl, rfl, rfl, rfl⟩

/-! ## The operations that write none of it -/

section
variable (s : State) {t : State}

theorem dispatch_sameContext : SameContext s (dispatch s) := by
  constructor <;> simp [dispatch]

theorem irqBody_sameContext : SameContext s (irqBody s) := by
  have hentered : SameContext s ({ s.record .irqEnter with seq := .handler }.goTo [.irqExit]) :=
    ⟨rfl, rfl, rfl, rfl, rfl⟩
  exact hentered.trans (dispatch_sameContext _)

theorem execIrq_sameContext (ht : exec .irq s = .next t) : SameContext s t := by
  cases ht
  split_ifs
  · exact irqBody_sameContext s
  · exact (OnlyTx.refl s).sameContext

theorem epaggOut_sameContext (pending : BitVec 16) : SameContext s (epaggOut pending s) := by
  unfold epaggOut
  split
  · exact (OnlyTx.refl s).sameContext
  · constructor <;> simp

theorem epaggIn_sameContext (pending : BitVec 16) : SameContext s (epaggIn pending s) := by
  unfold epaggIn
  split
  · exact (OnlyTx.refl s).sameContext
  · constructor <;> simp

theorem oepStup_sameContext (n : EpNum) : SameContext s (oepStup n s) := by
  unfold oepStup
  split_ifs
  · exact s.raiseFatal_sameContext _
  · exact s.goTo_sameContext _

theorem sendDescriptor_sameContext (bytes : List Byte) (n : Nat) : SameContext s (sendDescriptor bytes n s) := by
  have hstaged : SameContext s { s with txbuf := stageBytes s.txbuf bytes n, txlen := BitVec.ofNat 7 n } :=
    ⟨rfl, rfl, rfl, rfl, rfl⟩
  exact hstaged.trans (writeTx_onlyTx _ n _).sameContext

theorem getDescriptor_sameContext (ty ix : Byte) (len : BitVec 16) : SameContext s (getDescriptor ty ix len s) := by
  have hlookup : SameContext s (s.descLookup ty ix) := (OnlyTx.record s _).sameContext
  unfold getDescriptor
  dsimp only
  split
  · split_ifs
    · exact hlookup.trans (sendDescriptor_sameContext _ _ _)
    · exact hlookup.trans (unsupported_onlyTx _).sameContext
  · exact hlookup.trans (unsupported_onlyTx _).sameContext

theorem flushTx_sameContext (rest : List Frame) : SameContext s (flushTx id rest s) :=
  flushTx_rule (fun _ hu => hu.sameContext) (fun u hu => hu.sameContext.trans (u.raiseFatal_sameContext _))
    (fun u _ hu => hu.sameContext.trans (u.goTo_sameContext _))
    (fun u _ hu => hu.sameContext.trans (u.goTo_sameContext _))

theorem flushRx_sameContext (rest : List Frame) : SameContext s (flushRx id rest s) :=
  flushRx_rule (fun _ hu => hu.sameContext) (fun u hu => hu.sameContext.trans (u.raiseFatal_sameContext _))
    (fun u _ hu => hu.sameContext.trans (u.goTo_sameContext _))
    (fun u _ hu => hu.sameContext.trans (u.goTo_sameContext _))

/-! ## The operations that write some of it: the rest is kept -/

theorem evSession_context : SameContext { s with devState := (evSession s).devState } (evSession s) := by
  simp only [evSession]
  split_ifs <;> constructor <;> simp

/-- `t` has the context of `s`, but for the enumeration state and the address. -/
def SameButStateAndAddr (s t : State) : Prop := SameContext { s with devState := t.devState, addr := t.addr } t

theorem SameContext.butStateAndAddr {s t : State} (h : SameContext s t) : SameButStateAndAddr s t :=
  ⟨rfl, rfl, h.vbusSense, h.setup, h.speed⟩

theorem usbResetTail_context {s u : State} (h : SameContext s u) : SameButStateAndAddr s (usbResetTail u) :=
  ⟨rfl, rfl, h.vbusSense, h.setup, h.speed⟩

theorem evUsbReset_context : SameButStateAndAddr s (evUsbReset s) := by
  unfold evUsbReset
  split_ifs
  · exact (OnlyTx.refl s).sameContext.butStateAndAddr
  · have hwrites := s.performWrites_onlyTx s.par.resetMaskWrites
    have hfatal : ∀ u, OnlyTx s u → SameButStateAndAddr s (u.raiseFatal .spinTimeout) := fun u hu =>
      (hu.sameContext.trans (u.raiseFatal_sameContext _)).butStateAndAddr
    have hwait : ∀ u fs, OnlyTx s u → SameButStateAndAddr s (u.goTo fs) := fun u fs hu =>
      (hu.sameContext.trans (u.goTo_sameContext fs)).butStateAndAddr
    refine flushTx_rule (fun u hu => ?_) (fun u hu => hfatal u (hwrites.trans hu))
      (fun u _ hu => hwait u _ (hwrites.trans hu)) (fun u _ hu => hwait u _ (hwrites.trans hu))
    have hsu := hwrites.trans hu
    exact flushRx_rule (fun v hv => usbResetTail_context (hsu.trans hv).sameContext)
      (fun v hv => hfatal v (hsu.trans hv))
      (fun v _ hv => hwait v _ (hsu.trans hv)) (fun v _ hv => hwait v _ (hsu.trans hv))

theorem evEnumDone_context :
    SameContext { s with devState := (evEnumDone s).devState, speed := (evEnumDone s).speed } (evEnumDone s) := by
  unfold evEnumDone
  split_ifs
  · exact ⟨rfl, rfl, rfl, rfl, rfl⟩
  · constructor <;> simp [State.performWrites_eq]

theorem reqSetAddress_context (a : BitVec 7) :
    SameContext { s with addr := (reqSetAddress a s).addr } (reqSetAddress a s) := by
  unfold reqSetAddress
  split_ifs
  · exact ⟨rfl, rfl, rfl, rfl, rfl⟩
  · have hzlp : SameContext { s.fieldsWrite (.glob .devCfg) [(.devAddr, a.setWidth 32)] with addr := a } _ :=
      (writeTx_onlyTx [] 0 _).sameContext
    exact ⟨hzlp.devState, rfl, hzlp.vbusSense, hzlp.setup, hzlp.speed⟩

theorem rxSetupUpdate_context (ep bc : Word) :
    SameContext { s with setup := (rxSetupUpdate ep bc s).setup } (rxSetupUpdate ep bc s) := by
  unfold rxSetupUpdate
  split_ifs
  · exact ⟨rfl, rfl, rfl, rfl, rfl⟩
  · exact ⟨rfl, rfl, rfl, rfl, rfl⟩
  · constructor <;> simp [copySetup]

theorem initBody_context (v : Bool) :
    SameContext { s with devState := .uninitialized, addr := 0, vbusSense := v } (initBody v s) := by
  constructor <;> simp [initBody, State.performWrites_eq]

/-- INIT, also where it is ignored (R283). -/
theorem execInit_context (v : Bool) (ht : exec (.init v) s = .next t) : t.setup = s.setup ∧ t.speed = s.speed := by
  cases ht
  split_ifs
  · exact ⟨(initBody_context s v).setup, (initBody_context s v).speed⟩
  · exact ⟨rfl, rfl⟩

end

/-- Every other operation leaves all five as they are. -/
theorem exec_sameContext (i : Instr) (s t : State) (hi : i.writesContext = false) (ht : exec i s = .next t) :
    SameContext s t := by
  cases ha : i.accessOnly with
  | true =>
    obtain ⟨u, hu, hsu⟩ := exec_accessOnly i s ha
    cases hu.symm.trans ht
    exact hsu.sameContext
  | false =>
    match i, ha, hi with
    | .irq, _, _ => exact execIrq_sameContext s ht
    | .dispatch, _, _ => cases ht; exact dispatch_sameContext s
    | .evModeMismatch, _, _ | .fatal _, _, _ => cases ht; exact s.raiseFatal_sameContext _
    | .evRxStatus, _, _ | .evInEp, _, _ | .evOutEp, _, _ => cases ht; constructor <;> simp
    | .epaggOut _, _, _ => cases ht; exact epaggOut_sameContext s _
    | .epaggIn _, _, _ => cases ht; exact epaggIn_sameContext s _
    | .oepStup n, _, _ => cases ht; exact oepStup_sameContext s n
    | .reqGetDescriptor _ _ _, _, _ | .ep0Setup, _, _ => cases ht; exact s.goTo_sameContext _
    | .getDescriptorDevice _ _, _, _ | .getDescriptorConfiguration _ _, _, _ =>
      cases ht; exact getDescriptor_sameContext s _ _ _
    | .flushTx, _, _ => cases ht; exact flushTx_sameContext s []
    | .flushRx, _, _ => cases ht; exact flushRx_sameContext s []
    | .writeTx data len, _, _ =>
      simp only [exec, execWriteTx] at ht
      split_ifs at ht
      cases ht
      exact (writeTx_onlyTx data _ s).sameContext

/-- Settles O23: most operations keep the whole context; each of the seven others keeps all but what it writes. -/
theorem contextWriters : Obligations.ContextWriters := by
  intro i s t ht
  cases hi : i.writesContext with
  | false =>
    have h := exec_sameContext i s t hi ht
    exact ⟨fun _ _ _ _ _ => h.devState, fun _ _ _ _ => h.addr, fun _ _ => h.vbusSense,
      fun _ _ => h.setup, fun _ _ => h.speed⟩
  | true =>
    match i, hi with
    | .reset, _ =>
      exact ⟨fun _ _ _ hi => absurd rfl hi, fun _ _ hi => absurd rfl hi, fun hi => absurd rfl hi,
        fun _ hi => absurd rfl hi, fun _ hi => absurd rfl hi⟩
    | .init v, _ =>
      have h := execInit_context s v ht
      exact ⟨fun _ _ _ _ hi => absurd rfl (hi v), fun _ _ _ hi => absurd rfl (hi v), fun _ hi => absurd rfl (hi v),
        fun _ _ => h.1, fun _ _ => h.2⟩
    | .evSession, _ =>
      cases ht
      have h := evSession_context s
      exact ⟨fun hi => absurd rfl hi, fun _ _ _ _ => h.addr, fun _ _ => h.vbusSense,
        fun _ _ => h.setup, fun _ _ => h.speed⟩
    | .evUsbReset, _ =>
      cases ht
      have h := evUsbReset_context s
      exact ⟨fun _ hi => absurd rfl hi, fun hi => absurd rfl hi, fun _ _ => h.vbusSense,
        fun _ _ => h.setup, fun _ _ => h.speed⟩
    | .evEnumDone, _ =>
      cases ht
      have h := evEnumDone_context s
      exact ⟨fun _ _ hi => absurd rfl hi, fun _ _ _ _ => h.addr, fun _ _ => h.vbusSense,
        fun _ _ => h.setup, fun hi => absurd rfl hi⟩
    | .reqSetAddress a, _ =>
      cases ht
      have h := reqSetAddress_context s a
      exact ⟨fun _ _ _ _ _ => h.devState, fun _ hi => absurd rfl (hi a), fun _ _ => h.vbusSense,
        fun _ _ => h.setup, fun _ _ => h.speed⟩
    | .rxSetupUpdate ep bc dt, _ =>
      cases ht
      have h := rxSetupUpdate_context s ep bc
      exact ⟨fun _ _ _ _ _ => h.devState, fun _ _ _ _ => h.addr, fun _ _ => h.vbusSense,
        fun hi => absurd rfl (hi ep bc dt), fun _ _ => h.speed⟩

/-! ## The report of an abort -/

/-- Settles O33: the abort is its record and its status code, by the update that it is. -/
theorem txAbortReported : Obligations.TxAbortReported := fun _ => ⟨rfl, rfl, rfl⟩

end Sys2Proof.Machine
end

section
/-! PROOFS. The views of the setup packet are views of the same eight bytes (R23 to R25, R64). -/

namespace Sys2Proof

/-- Each byte written is read back at its own place: byte `k` drops the `k` bytes below it and is the lowest byte left. -/
theorem setupByte_setupOfBytes (b0 b1 b2 b3 b4 b5 b6 b7 : Byte) :
    let S := setupOfBytes b0 b1 b2 b3 b4 b5 b6 b7
    setupByte S 0 = b0 ∧ setupByte S 1 = b1 ∧ setupByte S 2 = b2 ∧ setupByte S 3 = b3 ∧
      setupByte S 4 = b4 ∧ setupByte S 5 = b5 ∧ setupByte S 6 = b6 ∧ setupByte S 7 = b7 := by
  refine ⟨?_, ?_, ?_, ?_, ?_, ?_, ?_, ?_⟩ <;> unfold setupByte setupOfBytes <;>
    repeat rw [BitVec.extractLsb'_append_eq_of_le (by decide)]
  case refine_8 => exact BitVec.extractLsb'_eq_self
  all_goals exact BitVec.extractLsb'_append_eq_right

/-- Two bytes that stand side by side are the 16 bits at the lower one's place. -/
theorem setupByte_append (S : BitVec 64) (k : Nat) : setupByte S (k + 1) ++ setupByte S k = S.extractLsb' (8 * k) 16 :=
  BitVec.extractLsb'_append_extractLsb'_eq_extractLsb' rfl

/-- The fields of 16 bits are two bytes, the low one first on the wire (R24). -/
theorem setupValue_eq (S : BitVec 64) : setupValue S = setupByte S 3 ++ setupByte S 2 := (setupByte_append S 2).symm

theorem setupIndex_eq (S : BitVec 64) : setupIndex S = setupByte S 5 ++ setupByte S 4 := (setupByte_append S 4).symm

theorem setupLength_eq (S : BitVec 64) : setupLength S = setupByte S 7 ++ setupByte S 6 := (setupByte_append S 6).symm

/-- Word `k` is its four bytes, the lowest one first (R23). -/
theorem setupWord_eq (S : BitVec 64) (k : Nat) :
    setupWord S k =
      setupByte S (4 * k + 3) ++ setupByte S (4 * k + 2) ++ setupByte S (4 * k + 1) ++ setupByte S (4 * k) := by
  simp only [setupByte]
  rw [BitVec.extractLsb'_append_extractLsb'_eq_extractLsb' (by omega),
    BitVec.extractLsb'_append_extractLsb'_eq_extractLsb' (by omega),
    BitVec.extractLsb'_append_extractLsb'_eq_extractLsb' (by omega)]
  unfold setupWord
  congr 1
  omega

/-- The packet is its two words. -/
theorem setupWord_append (S : BitVec 64) : setupWord S 1 ++ setupWord S 0 = S :=
  (BitVec.extractLsb'_append_extractLsb'_eq_extractLsb' (start₂ := 32) (start₁ := 0) (len₁ := 32) (len₂ := 32) rfl).trans
    BitVec.extractLsb'_eq_self

/-! A word write replaces its word and keeps the other one (R64). -/

theorem setupWord_setSetupWord0 (S : BitVec 64) (w : Word) :
    setupWord (setSetupWord0 S w) 0 = w ∧ setupWord (setSetupWord0 S w) 1 = setupWord S 1 :=
  ⟨BitVec.extractLsb'_append_eq_right, BitVec.extractLsb'_append_eq_left⟩

theorem setupWord_setSetupWord1 (S : BitVec 64) (w : Word) :
    setupWord (setSetupWord1 S w) 0 = setupWord S 0 ∧ setupWord (setSetupWord1 S w) 1 = w :=
  ⟨BitVec.extractLsb'_append_eq_right, BitVec.extractLsb'_append_eq_left⟩

/-- Both word writes together give the packet of the two words, whatever was there. -/
theorem setSetupWord1_setSetupWord0 (T : BitVec 64) (w0 w1 : Word) : setSetupWord1 (setSetupWord0 T w0) w1 = w1 ++ w0 := by
  rw [setSetupWord1, (setupWord_setSetupWord0 T w0).1]

/-- Settles O5: the eight bytes are read back, and every other view is made of bytes. -/
theorem setupViewsAlias : Obligations.SetupViewsAlias := by
  intro b0 b1 b2 b3 b4 b5 b6 b7 S
  obtain ⟨h0, h1, h2, h3, h4, h5, h6, h7⟩ := setupByte_setupOfBytes b0 b1 b2 b3 b4 b5 b6 b7
  have hw0 : setupWord S 0 = b3 ++ b2 ++ b1 ++ b0 := by rw [setupWord_eq, h3, h2, h1, h0]
  have hw1 : setupWord S 1 = b7 ++ b6 ++ b5 ++ b4 := by rw [setupWord_eq, h7, h6, h5, h4]
  refine ⟨⟨h0, h1, h2, h3, h4, h5, h6, h7⟩, ⟨h0, h1, ?_, ?_, ?_⟩, ⟨h2, h3, h4, h5, setupValue_eq S, setupIndex_eq S⟩,
    ⟨hw0, hw1⟩, fun T => ⟨?_, (setupWord_setSetupWord0 T _).2, (setupWord_setSetupWord1 T _).1⟩⟩
  · rw [setupValue_eq, h3, h2]
  · rw [setupIndex_eq, h5, h4]
  · rw [setupLength_eq, h7, h6]
  · rw [setSetupWord1_setSetupWord0, ← hw0, ← hw1, setupWord_append]

end Sys2Proof
end

section
/-! PROOFS. A grouped field write at word level (R66, R352): which bits the merged word has, and from which word it starts. -/

namespace Sys2Proof.Machine

/-- The bits that a field covers in the register of endpoint number `n`. -/
def Covers (p : Params) (n : EpNum) (f : Field) (i : Nat) : Prop := p.lo f n ≤ i ∧ i < p.lo f n + p.width f n

variable {p : Params} {n : EpNum}

/-- Not to be covered, as the statement says it. -/
theorem not_covers_iff (f : Field) (i : Nat) : ¬ Covers p n f i ↔ i < p.lo f n ∨ p.lo f n + p.width f n ≤ i := by
  unfold Covers; omega

/-- Two words have the same bit where they have it inside the word. -/
theorem getLsbD_congr {w w' : Word} {i : Nat} (h : i < 32 → w.getLsbD i = w'.getLsbD i) : w.getLsbD i = w'.getLsbD i := by
  by_cases hi : i < 32
  · exact h hi
  · rw [BitVec.getLsbD_of_ge _ _ (Nat.le_of_not_lt hi), BitVec.getLsbD_of_ge _ _ (Nat.le_of_not_lt hi)]

/-- The value of a field depends on the bits that the field covers alone. -/
theorem fieldOf_congr {f : Field} {w w' : Word} (h : ∀ i < 32, Covers p n f i → w.getLsbD i = w'.getLsbD i) :
    p.fieldOf f w n = p.fieldOf f w' n := by
  refine BitVec.eq_of_getLsbD_eq fun j _ => ?_
  rw [Params.fieldOf_getLsbD, Params.fieldOf_getLsbD]
  by_cases hj : j < p.width f n
  · rw [getLsbD_congr fun hi => h (p.lo f n + j) hi ⟨by omega, by omega⟩]
  · simp [hj]

/-- A bit that no listed field covers is as read. -/
theorem mergeFields_getLsbD_outside (fs : List (Field × Word)) (old : Word) (i : Nat)
    (h : ∀ x ∈ fs, ¬ Covers p n x.1 i) : (mergeFields p n old fs).getLsbD i = old.getLsbD i := by
  refine getLsbD_congr fun hi => ?_
  induction fs generalizing old with
  | nil => rfl
  | cons x fs ih =>
    have hx : ¬ Covers p n x.1 i := h x (List.mem_cons_self ..)
    have ih := ih (mergeField p n old x) fun y hy => h y (List.mem_cons_of_mem _ hy)
    rw [mergeFields, List.foldl_cons, ← mergeFields, ih, mergeField_getLsbD p n old x.2 x.1 i hi]
    exact if_neg hx

/-- A bit that one listed field covers and no other is that field's value. -/
theorem mergeFields_getLsbD_inside (fs : List (Field × Word)) (old : Word) (i : Nat) (hi : i < 32) (x : Field × Word)
    (hx : x ∈ fs) (hin : Covers p n x.1 i) (hnd : (fs.map Prod.fst).Nodup)
    (hother : ∀ y ∈ fs, y.1 ≠ x.1 → ¬ Covers p n y.1 i) :
    (mergeFields p n old fs).getLsbD i = x.2.getLsbD (i - p.lo x.1 n) := by
  induction fs generalizing old with
  | nil => cases hx
  | cons y fs ih =>
    rw [List.map_cons, List.nodup_cons] at hnd
    obtain ⟨hy, hnd⟩ := hnd
    rw [mergeFields, List.foldl_cons, ← mergeFields]
    rcases List.mem_cons.mp hx with rfl | hx
    · rw [mergeFields_getLsbD_outside, mergeField_getLsbD p n old x.2 x.1 i hi]
      · exact if_pos hin
      · intro z hz
        exact hother z (List.mem_cons_of_mem _ hz) fun he => hy (he ▸ List.mem_map_of_mem hz)
    · exact ih _ hx hnd fun z hz => hother z (List.mem_cons_of_mem _ hz)

section Register
variable {r : Reg} {fs : List (Field × Word)} (hwf : p.wf = true) (hfs : ∀ x ∈ fs, x.1 ∈ p.fieldsOf r)
include hwf

/-- No bit is covered by two fields of a register. -/
theorem not_covers_of_ne {f g : Field} (hf : f ∈ p.fieldsOf r) (hg : g ∈ p.fieldsOf r) (hne : g ≠ f) {i : Nat}
    (hi : Covers p r.n f i) : ¬ Covers p r.n g i := by
  have := p.fields_apart hwf r f g hf hg hne.symm
  unfold Covers at *
  omega

/-- The value of a field of a register, by its bits. -/
theorem fieldOf_eq_of_getLsbD {f : Field} (hf : f ∈ p.fieldsOf r) (w v : Word)
    (h : ∀ i, i < 32 → Covers p r.n f i → w.getLsbD i = v.getLsbD (i - p.lo f r.n)) :
    p.fieldOf f w r.n = truncTo (p.width f r.n) v := by
  have hin := p.lo_add_width hwf r f hf
  refine BitVec.eq_of_getLsbD_eq fun j _ => ?_
  rw [Params.fieldOf_getLsbD, truncTo_getLsbD]
  by_cases hj : j < p.width f r.n
  · rw [h (p.lo f r.n + j) (by omega) ⟨by omega, by omega⟩, Nat.add_sub_cancel_left]
  · simp [hj]

include hfs

/-- A listed field has its value, cut to its width, whatever word the write starts from (R66). -/
theorem mergeFields_listed (hnd : (fs.map Prod.fst).Nodup) (old : Word) (x : Field × Word) (hx : x ∈ fs) :
    p.fieldOf x.1 (mergeFields p r.n old fs) r.n = truncTo (p.width x.1 r.n) x.2 :=
  fieldOf_eq_of_getLsbD hwf (hfs x hx) _ _ fun i hi hin =>
    mergeFields_getLsbD_inside fs old i hi x hx hin hnd fun y hy hne =>
      not_covers_of_ne hwf (hfs x hx) (hfs y hy) hne hin

/-- In the bits of a field that is not listed the merged word is the word that the write starts from. -/
theorem mergeFields_unlisted {f : Field} (hf : f ∈ p.fieldsOf r) (hne : ∀ x ∈ fs, x.1 ≠ f) (old : Word) {i : Nat}
    (hi : Covers p r.n f i) : (mergeFields p r.n old fs).getLsbD i = old.getLsbD i :=
  mergeFields_getLsbD_outside fs old i fun x hx => not_covers_of_ne hwf hf (hfs x hx) (hne x hx) hi

end Register

/-- The registers whose every bit is an action (R35: "w1c, per bit"). -/
theorem wordKind_acts_iff (q : RegName) :
    q.wordKind.any FieldKind.actsOnOne = true ↔ q ∈ [RegName.intSts, .inInt, .outInt] := by
  cases q <;> simp [RegName.wordKind, FieldKind.actsOnOne]

/-- The kinds of which a 1 written is an action (R34). -/
theorem actsOnOne_iff (k : FieldKind) : k.actsOnOne = true ↔ k = .command ∨ k = .w1c := by
  simp [FieldKind.actsOnOne]

/-- Whether some action field of the register covers a bit. -/
theorem actionFields_any_iff (r : Reg) (i : Nat) :
    ((p.fieldsOf r).filter (fun f => f.kind.actsOnOne)).any
        (fun f => decide (p.lo f r.n ≤ i ∧ i < p.lo f r.n + p.width f r.n)) = true ↔
      ∃ f ∈ p.fieldsOf r, f.kind.actsOnOne = true ∧ Covers p r.n f i := by
  simp [List.any_eq_true, Covers]

/-- In a register whose every bit is an action the write starts from 0 (R35). -/
theorem clearActions_allActions {r : Reg} (hr : r.name ∈ [RegName.intSts, .inInt, .outInt]) (old : Word) :
    clearActions p r old = 0 := if_pos ((wordKind_acts_iff r.name).mpr hr)

/-- Every other register keeps the bits that no action field covers (R37). -/
theorem clearActions_kept {r : Reg} (hr : r.name ∉ [RegName.intSts, .inInt, .outInt]) (old : Word) (i : Nat)
    (h : ∀ f ∈ p.fieldsOf r, f.kind.actsOnOne = true → ¬ Covers p r.n f i) :
    (clearActions p r old).getLsbD i = old.getLsbD i := by
  refine getLsbD_congr fun hi => ?_
  have hword := mt (wordKind_acts_iff r.name).mp hr
  have hnone := mt (actionFields_any_iff r i).mp fun ⟨f, hf, hact, hin⟩ => h f hf hact hin
  rw [clearActions_getLsbD p r old i hi, Bool.eq_false_of_not_eq_true hword, Bool.eq_false_of_not_eq_true hnone]
  simp

/-- An action field is 0 in the word that the write starts from (R352). -/
theorem clearActions_action {r : Reg} {f : Field} (hf : f ∈ p.fieldsOf r) (hact : f.kind.actsOnOne = true) (old : Word)
    {i : Nat} (hi : i < 32) (hin : Covers p r.n f i) : (clearActions p r old).getLsbD i = false := by
  rw [clearActions_getLsbD p r old i hi, (actionFields_any_iff r i).mpr ⟨f, hf, hact, hin⟩]
  simp

/-- Settles O7: a listed field has its value, an action field that is not listed is 0 in the word that the write starts from,
and no other bit is touched. -/
theorem fieldsWriteMerges : Obligations.FieldsWriteMerges := by
  intro p r fs old hwf hfs hnd
  simp only [← not_covers_iff]
  refine ⟨mergeFields_listed hwf hfs hnd old, mergeFields_getLsbD_outside fs old, _, rfl,
    mergeFields_listed hwf hfs hnd _, fun f hf hne hkind => ?_, fun hr i hi => ?_,
    fun hr => ⟨fun f hf hne hc hw => ?_, fun i hi => ?_⟩⟩
  · have hact : f.kind.actsOnOne = true := (actsOnOne_iff _).mpr hkind
    have hzero : p.fieldOf f (mergeFields p r.n (clearActions p r old) fs) r.n = p.fieldOf f 0 r.n :=
      fieldOf_congr fun i hi hin => by
        rw [mergeFields_unlisted hwf hfs hf hne _ hin, clearActions_action hf hact old hi hin]
        simp
    rw [hzero]
    simp [Params.fieldOf, truncTo]
  · rw [mergeFields_getLsbD_outside fs _ i hi, clearActions_allActions hr]
    simp
  · have hact : ¬ f.kind.actsOnOne = true := fun h => ((actsOnOne_iff _).mp h).elim hc hw
    refine fieldOf_congr fun i _ hin => ?_
    rw [mergeFields_unlisted hwf hfs hf hne _ hin, clearActions_kept hr old i]
    exact fun g hg hgact => not_covers_of_ne hwf hf hg (fun he => hact (he ▸ hgact)) hin
  · rw [mergeFields_getLsbD_outside fs _ i fun x hx => hi x.1 (hfs x hx), clearActions_kept hr old i fun f hf _ => hi f hf]

end Sys2Proof.Machine
end

section
/-! PROOFS. GET_DESCRIPTOR that sends (R225 to R227): WRITE_TX of the staged buffer. -/

namespace Sys2Proof.Machine

/-- A packed word depends on the bytes below the length alone (R63). -/
theorem packWord_congr (data data' : List Byte) (length k : Nat) (h : ∀ i < length, data.getD i 0 = data'.getD i 0) :
    packWord data length k = packWord data' length k := by
  have hbyte : ∀ i, packByte data length i = packByte data' length i := fun i => by
    unfold packByte
    split_ifs with hi
    · exact h i hi
    · rfl
  simp only [packWord, hbyte]

/-- The records of a packet depend on the bytes that are sent alone. -/
theorem sendRecords_congr (data data' : List Byte) (length : Nat) (h : ∀ i < length, data.getD i 0 = data'.getD i 0) :
    sendRecords data length = sendRecords data' length := by
  simp only [sendRecords, pushRecords, packWord_congr data data' length _ h]

/-- The bytes staged first are those of the descriptor that are sent. -/
theorem sendRecords_staged (buf bytes : List Byte) (len : Nat) :
    sendRecords (stageBytes buf bytes (min bytes.length len)) (min bytes.length len) =
      sendRecords (bytes.take len) (min bytes.length len) := by
  refine sendRecords_congr _ _ _ fun i hi => ?_
  rw [stageBytes_getD _ _ _ _ (Nat.min_le_left _ _), if_pos hi]
  simp only [List.getD_eq_getElem?_getD]
  rw [List.getElem?_take_of_lt (by omega)]

/-- The state in which GET_DESCRIPTOR sends: the lookup is recorded and the first `n` bytes are staged (R225). -/
def State.staged (s : State) (ty ix : Byte) (bytes : List Byte) (n : Nat) : State :=
  { s with
    txbuf := stageBytes s.txbuf bytes n
    txlen := BitVec.ofNat 7 n
    trace := s.trace ++ [.desc ty ix (some bytes.length)] }

/-- GET_DESCRIPTOR that finds bytes to send is WRITE_TX of the staged buffer. -/
theorem getDescriptor_found (s : State) (ty ix : Byte) (len : BitVec 16) (bytes : List Byte)
    (hd : s.par.descLookup ty ix = some bytes) (hpos : 0 < min bytes.length len.toNat) :
    getDescriptor ty ix len s =
      writeTx (stageBytes s.txbuf bytes (min bytes.length len.toNat)) (min bytes.length len.toNat)
        (s.staged ty ix bytes (min bytes.length len.toNat)) := by
  simp only [getDescriptor, hd, if_pos hpos]
  simp [sendDescriptor, State.descLookup, hd, State.record, State.staged]

/-- Staging takes no answer: the answers after it are those before it. -/
theorem staged_answerTaken (s : State) (ty ix : Byte) (bytes : List Byte) (n : Nat) :
    (s.staged ty ix bytes n).answerTaken = s.answerTaken.staged ty ix bytes n := by
  simp only [State.answerTaken, State.staged]
  split <;> rfl

/-- Staging changes no value read. -/
theorem staged_fieldValue (s : State) (ty ix : Byte) (bytes : List Byte) (n : Nat) (f : Field) (m : EpNum) :
    (s.staged ty ix bytes n).fieldValue f m = s.fieldValue f m := rfl

/-- A record changes no value read. -/
theorem State.record_fieldValue (s : State) (r : Record) (f : Field) (m : EpNum) :
    (s.record r).fieldValue f m = s.fieldValue f m := rfl

/-- GET_DESCRIPTOR whose transmission passes both checks. -/
theorem getDescriptor_sends (s : State) (ty ix : Byte) (len : BitVec 16) (bytes : List Byte) (hwf : s.par.wf = true)
    (hd : s.par.descLookup ty ix = some bytes) (hpos : 0 < min bytes.length len.toNat) (hactive : s.fieldValue .inActive = 1)
    (hspace : ceil4 (min bytes.length len.toNat) ≤ (s.answerTaken.fieldValue .spaceAvail).toNat) :
    getDescriptor ty ix len s =
      { s.answerTaken.answerTaken with
        txbuf := bytes.take (min bytes.length len.toNat) ++ s.txbuf.drop (min bytes.length len.toNat)
        txlen := BitVec.ofNat 7 (min bytes.length len.toNat)
        txStatus := .ok
        txk := BitVec.ofNat 5 (ceil4 (min bytes.length len.toNat))
        trace := s.trace ++
          [.desc ty ix (some bytes.length),
           .rd ⟨.inCtl, 0⟩ .inActive 1,
           .rd ⟨.inFifoSts, 0⟩ .spaceAvail (s.answerTaken.fieldValue .spaceAvail)] ++
          sendRecords (bytes.take len.toNat) (min bytes.length len.toNat) } := by
  have hcap : min bytes.length len.toNat ≤ txbufCap := (Nat.min_le_left _ _).trans (s.par.desc_length hwf ty ix bytes hd)
  have hread : s.fieldValue .inActive ≠ 0 := by rw [hactive]; decide
  rw [getDescriptor_found s ty ix len bytes hd hpos,
    writeTx_sends _ _ hcap (s.staged ty ix bytes _) hread
      (by simpa only [staged_answerTaken, staged_fieldValue] using hspace), sendRecords_staged]
  simp only [State.fieldRead_eq, State.record_answerTaken, State.record_fieldValue, staged_answerTaken, staged_fieldValue]
  simp [State.staged, State.record, stageBytes, hactive]

/-- Settles O51: both rows are GET_DESCRIPTOR of their tag. -/
theorem getDescriptorSends : Obligations.GetDescriptorSends := by
  intro s i len bytes x hx hwf hd hpos hactive hspace
  simp only [List.mem_cons, List.not_mem_nil, or_false] at hx
  rcases hx with rfl | rfl
  · exact congrArg Host.Outcome.next (getDescriptor_sends s _ i len bytes hwf hd hpos hactive hspace)
  · exact congrArg Host.Outcome.next (getDescriptor_sends s _ i len bytes hwf hd hpos hactive hspace)

end Sys2Proof.Machine
end

section
/-! PROOFS. The statements on 20_memory.md: every word access is aligned (R65), and the copy of the setup payload (R203, R64). -/

namespace Sys2Proof.Machine

/-! ## Aligned accesses (R65) -/

/-- Under a configuration the model accepts every register address is divisible by 4 (R65): the base, the offset and the stride
are, and 4 divides the modulus at which the sum wraps. -/
theorem regAddr_aligned (p : Params) (hwf : p.wf = true) (r : Reg) : (regAddr p r).toNat % 4 = 0 := by
  obtain ⟨hbase, hrows⟩ := p.row_aligned hwf
  unfold regAddr
  split
  · next row hrow =>
    obtain ⟨hoffset, hstride⟩ := hrows row (List.mem_of_find?_eq_some hrow)
    have hplace : row.stride * r.n.toNat % 4 = 0 := by simp [Nat.mul_mod, hstride]
    rw [BitVec.toNat_add, BitVec.toNat_ofNat]
    omega
  · exact hbase

/-- The address of a word access. -/
def BusAccess.addr : BusAccess → Word
  | .rd a _ => a
  | .wr a _ => a

/-- The word accesses of a record are at addresses of registers. -/
theorem busAccess_addr (p : Params) (old : Word) (r : Record) (x : BusAccess) (hx : x ∈ busAccesses p old r) :
    ∃ q, x.addr = regAddr p q := by
  cases r with
  | rdWord q v | rd q f v | wr q v | push n w | pop n w | rxpop w =>
    rw [busAccesses, List.mem_singleton] at hx
    exact ⟨_, congrArg BusAccess.addr hx⟩
  | wrFields q fs =>
    rw [busAccesses, List.mem_pair] at hx
    exact ⟨q, by rcases hx with rfl | rfl <;> rfl⟩
  | desc t i found | txabort k | fatal c | init v | irqEnter | irqExit => cases hx

/-- Settles O8: a word access is at a register's address, and those are aligned. -/
theorem busAccessesAligned : Obligations.BusAccessesAligned := by
  intro p old r a v hwf hacc
  have haddr : ∃ q, a = regAddr p q := by
    rcases hacc with hrd | hwr
    · exact busAccess_addr p old r _ hrd
    · exact busAccess_addr p old r _ hwr
  obtain ⟨q, rfl⟩ := haddr
  exact regAddr_aligned p hwf q

/-! ## The setup payload (R203, R64) -/

/-- The state with the packet `S` in place of the previous one. -/
def State.withSetup (s : State) (S : BitVec 64) : State := { s with setup := S }

/-- The packet makes no difference to the answers. -/
theorem State.withSetup_answerValue (s : State) (S : BitVec 64) : (s.withSetup S).answerValue = s.answerValue := rfl

theorem State.withSetup_answerTaken (s : State) (S : BitVec 64) :
    (s.withSetup S).answerTaken = s.answerTaken.withSetup S := by
  simp only [State.answerTaken, State.withSetup]
  split <;> rfl

/-- The copy is two pops, each followed by the write of its word. -/
theorem copySetup_pops (ep : EpNum) (s : State) :
    let t := (s.fifoPop ep).withSetup (setSetupWord0 s.setup s.answerValue)
    copySetup ep s = (t.fifoPop ep).withSetup (setSetupWord1 t.setup t.answerValue) := rfl

/-- What the copy does: the first word popped is the low half of the packet, the second one the high half (R203, R64). -/
theorem copySetup_eq (ep : EpNum) (s : State) :
    copySetup ep s =
      { s.answerTaken.answerTaken with
        setup := s.answerTaken.answerValue ++ s.answerValue
        trace := s.trace ++ [.pop ep s.answerValue, .pop ep s.answerTaken.answerValue] } := by
  simp only [copySetup_pops, State.fifoPop_eq, State.withSetup_answerValue, State.record_answerValue,
    State.withSetup_answerTaken, State.record_answerTaken]
  simp [State.withSetup, State.record, setSetupWord1_setSetupWord0]

/-- Settles O41: on endpoint 0 with 8 bytes both checks pass, and the payload is copied. -/
theorem rxSetupCopies : Obligations.RxSetupCopies := by
  intro s dt
  rw [← copySetup_eq]
  rfl

end Sys2Proof.Machine
end

section
/-! PROOFS. No step changes the parameters, and the trace only grows (R73, R80, R82). Each operation is shown
once to keep the parameters and to add records only, from the elementary updates that it consists of. -/

namespace Sys2Proof.Machine

/-- From `s` to `t` the parameters stay, and records are only added at the end of the trace. -/
structure Extends (s t : State) : Prop where
  par : t.par = s.par
  trace : s.trace <+: t.trace

variable {s t u : State}

/-- An update of other parts touches neither. -/
theorem Extends.of_eq (hpar : t.par = s.par) (htrace : t.trace = s.trace) : Extends s t :=
  ⟨hpar, htrace ▸ List.prefix_refl _⟩

theorem Extends.refl (s : State) : Extends s s := .of_eq rfl rfl

theorem Extends.trans (h : Extends s t) (h' : Extends t u) : Extends s u :=
  ⟨h'.par.trans h.par, h.trace.trans h'.trace⟩

/-- Only the parameters and the trace of the first state matter. -/
theorem Extends.congr_left (h : Extends u t) (hpar : u.par = s.par) (htrace : u.trace = s.trace) : Extends s t :=
  (Extends.of_eq hpar htrace).trans h

/-! ## The primitives (R10, R304, R306, R340) -/

theorem State.record_extends (s : State) (r : Record) : Extends s (s.record r) := ⟨rfl, List.prefix_append _ _⟩

theorem State.goTo_extends (s : State) (fs : List Frame) : Extends s (s.goTo fs) := .of_eq rfl rfl

theorem State.read_extends (s : State) (r : Record) : Extends s (s.answerTaken.record r) :=
  (Extends.of_eq s.answerTaken_par s.answerTaken_trace).trans (s.answerTaken.record_extends r)

theorem State.raiseFatal_extends (s : State) (c : Cause) : Extends s (s.raiseFatal c) :=
  ⟨rfl, List.prefix_append _ _⟩

theorem State.reportTxAbort_extends (s : State) (k : TxAbort) : Extends s (s.reportTxAbort k) :=
  ⟨rfl, List.prefix_append _ _⟩

theorem State.performWrites_extends (s : State) (ws : List CfgWrite) : Extends s (s.performWrites ws) := by
  rw [State.performWrites_eq]
  exact ⟨rfl, List.prefix_append _ _⟩

theorem State.resetBlock_extends (s : State) : Extends s s.resetBlock := .of_eq rfl rfl

/-! ## WRITE_TX and the busy-waits (R140 to R143) -/

theorem writeTxSend_extends (data : List Byte) (length : Nat) (s : State) : Extends s (writeTxSend data length s) := by
  constructor <;> simp [writeTxSend, pushWords_eq, rearmOut_eq]

theorem writeTx_extends (data : List Byte) (length : Nat) (s : State) : Extends s (writeTx data length s) := by
  have hactive : Extends s (s.fieldRead (inReg .inCtl 0) .inActive) := s.read_extends _
  have hspace : Extends s ((s.fieldRead (inReg .inCtl 0) .inActive).fieldRead (inReg .inFifoSts 0) .spaceAvail) :=
    hactive.trans (State.read_extends _ _)
  unfold writeTx
  dsimp only
  split_ifs
  · exact hactive.trans (State.reportTxAbort_extends _ _)
  · exact hspace.trans (State.reportTxAbort_extends _ _)
  · exact hspace.trans (writeTxSend_extends data length _)

section Spin
variable {next : State → State} (hnext : ∀ v, Extends v (next v)) (rest : List Frame) (s : State)
include hnext

/-- A busy-wait only adds records if what follows it does. -/
theorem spinOnce_extends (p : SpinPoint) (n : Nat) : Extends s (spinOnce p n next rest s) := by
  have hread : Extends s (s.fieldRead rstCtl p.field) := s.read_extends _
  rcases spinOnce_cases p n next rest s with ⟨-, h⟩ | ⟨-, -, h⟩ | ⟨-, -, h⟩ <;> rw [h]
  · exact hread.trans (hnext _)
  · exact hread.trans (State.raiseFatal_extends _ _)
  · exact hread.trans (State.goTo_extends _ _)

theorem flushTxRequest_extends : Extends s (flushTxRequest next rest s) :=
  (s.record_extends _).trans (spinOnce_extends hnext rest _ .txDone 0)

theorem flushRxRequest_extends : Extends s (flushRxRequest next rest s) :=
  (s.record_extends _).trans (spinOnce_extends hnext rest _ .rxDone 0)

theorem flushTx_extends : Extends s (flushTx next rest s) :=
  spinOnce_extends (flushTxRequest_extends hnext rest) rest s .txIdle 0

theorem flushRx_extends : Extends s (flushRx next rest s) :=
  spinOnce_extends (flushRxRequest_extends hnext rest) rest s .rxIdle 0

end Spin

theorem resumeSpin_extends (p : SpinPoint) (n : Nat) (s : State) : Extends s (resumeSpin p n s) := by
  cases p with
  | txIdle => exact spinOnce_extends (flushTxRequest_extends Extends.refl []) [] s .txIdle n
  | txDone => exact spinOnce_extends Extends.refl [] s .txDone n
  | rxIdle => exact spinOnce_extends (flushRxRequest_extends Extends.refl []) [] s .rxIdle n
  | rxDone => exact spinOnce_extends Extends.refl [] s .rxDone n

/-! ## The operations -/

section
variable (s : State)

theorem dispatch_extends : Extends s (dispatch s) := by
  constructor <;> simp [dispatch]

theorem irqBody_extends : Extends s (irqBody s) := by
  constructor <;> simp [irqBody, dispatch]

theorem initBody_extends (v : Bool) : Extends s (initBody v s) := by
  constructor <;> simp [initBody, State.performWrites_eq]

theorem execInit_extends (v : Bool) (ht : exec (.init v) s = .next t) : Extends s t := by
  cases ht
  split_ifs
  · exact initBody_extends s v
  · exact .refl s

theorem execIrq_extends (ht : exec .irq s = .next t) : Extends s t := by
  cases ht
  split_ifs
  · exact irqBody_extends s
  · exact .refl s

theorem usbResetTail_extends : Extends s (usbResetTail s) := by
  constructor <;> simp [usbResetTail, armSetupOut0, rearmOut_eq]

theorem evUsbReset_extends : Extends s (evUsbReset s) := by
  unfold evUsbReset
  split_ifs
  · exact .refl s
  · exact (s.performWrites_extends _).trans
      (flushTx_extends (flushRx_extends usbResetTail_extends _) _ _)

theorem evEnumDone_extends : Extends s (evEnumDone s) := by
  unfold evEnumDone
  split_ifs
  · exact .refl s
  · constructor <;> simp [State.performWrites_eq]

theorem evSession_extends : Extends s (evSession s) := by
  have hread : Extends s (s.fieldRead (.glob .otgCtl) .bSessionValid) := s.read_extends _
  unfold evSession
  dsimp only
  split_ifs
  · exact hread
  · exact hread
  · constructor <;> simp

theorem rxSetupUpdate_extends (ep bc : Word) : Extends s (rxSetupUpdate ep bc s) := by
  unfold rxSetupUpdate
  split_ifs
  · exact s.raiseFatal_extends _
  · exact s.raiseFatal_extends _
  · constructor <;> simp [copySetup]

theorem epaggOut_extends (pending : BitVec 16) : Extends s (epaggOut pending s) := by
  unfold epaggOut
  split
  · exact .refl s
  · constructor <;> simp

theorem epaggIn_extends (pending : BitVec 16) : Extends s (epaggIn pending s) := by
  unfold epaggIn
  split
  · exact .refl s
  · constructor <;> simp

theorem oepStup_extends (n : EpNum) : Extends s (oepStup n s) := by
  unfold oepStup
  split_ifs
  · exact s.raiseFatal_extends _
  · exact s.goTo_extends _

theorem unsupported_extends : Extends s (unsupported s) := by
  rw [unsupported_eq]
  exact ⟨rfl, List.prefix_append _ _⟩

theorem reqSetAddress_extends (a : BitVec 7) : Extends s (reqSetAddress a s) := by
  unfold reqSetAddress
  split_ifs
  · exact s.raiseFatal_extends _
  · exact (State.record_extends _ _).trans ((writeTx_extends [] 0 _).congr_left rfl rfl)

theorem sendDescriptor_extends (bytes : List Byte) (n : Nat) : Extends s (sendDescriptor bytes n s) :=
  (writeTx_extends _ n { s with txbuf := stageBytes s.txbuf bytes n, txlen := BitVec.ofNat 7 n }).congr_left rfl rfl

theorem getDescriptor_extends (ty ix : Byte) (len : BitVec 16) : Extends s (getDescriptor ty ix len s) := by
  have hlookup : Extends s (s.descLookup ty ix) := s.record_extends _
  unfold getDescriptor
  dsimp only
  split
  · split_ifs
    · exact hlookup.trans (sendDescriptor_extends _ _ _)
    · exact hlookup.trans (unsupported_extends _)
  · exact hlookup.trans (unsupported_extends _)

end

/-- Every operation keeps the parameters and only adds records. -/
theorem exec_extends (i : Instr) (s : State) (ht : exec i s = .next t) : Extends s t := by
  cases i with
  | reset => cases ht; exact s.resetBlock_extends
  | init v => exact execInit_extends s v ht
  | irq => exact execIrq_extends s ht
  | dispatch => cases ht; exact dispatch_extends s
  | ackOnlyB0 | ackOnlyB2 | ackOnlyB3 | ackOnlyB5 | ackOnlyB6 | ackOnlyB7 | ackOnlyB8 | ackOnlyB9 | ackOnlyB10
  | ackOnlyB11 | ackOnlyB14 | ackOnlyB15 | ackOnlyB16 | ackOnlyB17 | ackOnlyB20 | ackOnlyB21 | ackOnlyB22
  | ackOnlyB23 | ackOnlyB24 | ackOnlyB25 | ackOnlyB26 | ackOnlyB27 | ackOnlyB28 | ackOnlyB29 | ackOnlyB31
  | oepXfrc n | oepEpdisd n | oepOtepdis n | oepNak n | iepEpdisd n | iepNak n | rearmOut n =>
    cases ht; exact s.record_extends _
  | iepXfrc n | stallEp0 | armSetupOut0 => cases ht; exact (s.record_extends _).trans (State.record_extends _ _)
  | evModeMismatch | fatal c => cases ht; exact s.raiseFatal_extends _
  | evRxStatus | evInEp | evOutEp => cases ht; constructor <;> simp
  | evUsbReset => cases ht; exact evUsbReset_extends s
  | evEnumDone => cases ht; exact evEnumDone_extends s
  | evSession => cases ht; exact evSession_extends s
  | rxNak ep bc dt | rxDataUpdate ep bc dt | rxXferComplete ep bc dt | rxSetupComplete ep bc dt
  | rxReserved kind ep bc dt => cases ht; exact .refl s
  | rxSetupUpdate ep bc dt => cases ht; exact rxSetupUpdate_extends s ep bc
  | epaggOut pending => cases ht; exact epaggOut_extends s pending
  | epaggIn pending => cases ht; exact epaggIn_extends s pending
  | oepStup n => cases ht; exact oepStup_extends s n
  | reqGetStatus | reqClearFeature | reqSetFeature | reqSetDescriptor | reqGetConfiguration | reqSetConfiguration
  | reqGetInterface | reqSetInterface | reqSynchFrame | reqUnknown _ | getDescriptorString | getDescriptorInterface
  | getDescriptorEndpoint | getDescriptorQualifier | getDescriptorOther _ | unsupported =>
    cases ht; exact unsupported_extends s
  | reqSetAddress a => cases ht; exact reqSetAddress_extends s a
  | reqGetDescriptor ty ix len | ep0Setup => cases ht; exact s.goTo_extends _
  | getDescriptorDevice ix len | getDescriptorConfiguration ix len => cases ht; exact getDescriptor_extends s _ ix len
  | flushTx => cases ht; exact flushTx_extends Extends.refl [] s
  | flushRx => cases ht; exact flushRx_extends Extends.refl [] s
  | writeTx data len =>
    simp only [exec, execWriteTx] at ht
    split_ifs at ht
    cases ht
    exact writeTx_extends data _ s
  | zlp => cases ht; exact writeTx_extends [] 0 s
  | txabort k => cases ht; exact s.reportTxAbort_extends k

/-! ## The sequencer (R30, R181, R340) -/

/-- Entering an operation moves the sequencer only. -/
theorem State.enter_extends (s : State) (fw : FetchWord) : Extends s (s.enter fw) := by
  cases fw with
  | gint start w | outEvt n start w | inEvt n start w =>
    simp only [State.enter]
    split <;> exact .of_eq rfl rfl
  | rxsts w | epaggOut w | epaggIn w | setup8 S | desc ty ix len => exact .refl s

theorem State.afterReject_extends (s : State) (fw : FetchWord) (e : Reject) : Extends s (s.afterReject fw e) := by
  unfold State.afterReject
  split
  · exact .of_eq rfl rfl
  · exact .refl s
  · exact (State.record_extends _ _).congr_left rfl rfl

theorem resume_extends (f : Frame) (s : State) (ht : resume f s = .next t) : Extends s t := by
  unfold resume at ht
  split at ht
  · next fw _ =>
    rcases decodeExec_next_cases ht with ⟨i, -, ht⟩ | ⟨e, -, rfl⟩
    · exact (s.enter_extends fw).trans (exec_extends i _ ht)
    · exact s.afterReject_extends fw e
  · split at ht
    · cases ht; exact s.record_extends _
    · cases ht; constructor <;> simp [irqExit]
    · cases ht; exact s.record_extends _
    · cases ht; exact resumeSpin_extends _ _ s
    · exact exec_extends .flushRx s ht
    · cases ht; exact usbResetTail_extends s
    · cases ht; exact .refl _

theorem advance_extends (s : State) (ht : s.advance = .next t) : Extends s t := by
  rcases advance_next_cases s t ht with
    ⟨cs, -, ht⟩ | ⟨v, cs, -, ht⟩ | ⟨f, rest, -, ht⟩ | ⟨cs, -, -, ht⟩ | ⟨-, -, -, rfl⟩
  · exact (exec_extends _ { s with calls := cs } ht).congr_left rfl rfl
  · exact (exec_extends _ { s with calls := cs } ht).congr_left rfl rfl
  · exact (resume_extends f { s with cont := rest } ht).congr_left rfl rfl
  · exact (exec_extends _ { s with calls := cs } ht).congr_left rfl rfl
  · exact .refl _

/-- A step that is cut off keeps the records before it and some of its own (R340). -/
theorem cutByReset_extends (k : Nat) (h : Extends s t) : Extends s (cutByReset k s t) :=
  ⟨h.par, List.prefix_append _ _⟩

theorem advanceToReset_extends (s : State) (k : Nat) (ht : s.advanceToReset k = .next t) : Extends s t := by
  unfold State.advanceToReset at ht
  split at ht
  · next u hu =>
    have hsu := advance_extends s hu
    split at ht <;> cases ht
    · exact cutByReset_extends k hsu
    · exact hsu.trans (.of_eq rfl rfl)
  · cases ht; exact .of_eq rfl rfl
  · cases ht

/-- Every step keeps the parameters and only adds records. -/
theorem step_extends (s : State) (ht : step s = .next t) : Extends s t := by
  rw [step_of_wf s (step_next_wf s t ht)] at ht
  unfold State.sequence at ht
  split at ht
  · exact advance_extends s ht
  · exact advanceToReset_extends s _ ht

/-- The parameters that the state carries are not read. -/
theorem stepUnder_par (p q : Params) (s : State) : stepUnder p { s with par := q } = stepUnder p s := rfl

/-- Under the parameters that the state carries the relation is `step`. -/
theorem stepUnder_self (s : State) : stepUnder s.par s = step s := rfl

/-- Settles O21: a step extends the state it starts from, so its parameters are those of the step relation. -/
theorem stepKeepsParametersAndTrace : Obligations.StepKeepsParametersAndTrace := by
  refine ⟨fun s t ht => ?_, fun p q s t ht => ?_⟩
  · obtain ⟨hpar, rs, hrs⟩ := step_extends s ht
    exact ⟨hpar, rs, hrs.symm⟩
  · obtain rfl : t.par = p := (step_extends { s with par := p } ht).par
    exact ⟨rfl, (stepUnder_par t.par q s).trans ht, stepUnder_self t⟩

end Sys2Proof.Machine
end

section
/-! PROOFS. The statements on 30_encoding.md: a well-formed operation is read back from its word, what each decoder gives,
and which words give it (R100 to R117, R122). A decoder that compares a field with codes is one selection among rows. -/

namespace Sys2Proof

/-! ## A selection among rows -/

/-- The value of the first row with the key `k`, the default `d` where no row has it: the shape of the decoders that compare
a field with one code after another (R106, R115, R116). -/
def selectRow {α β : Type} [DecidableEq α] (rows : List (α × β)) (d : β) (k : α) : β :=
  rows.foldr (fun x below => if k = x.1 then x.2 else below) d

section Rows
variable {α β : Type} [DecidableEq α] {rows : List (α × β)} {d y : β} {k : α}

theorem selectRow_cons (x : α × β) (rows : List (α × β)) (d : β) (k : α) :
    selectRow (x :: rows) d k = if k = x.1 then x.2 else selectRow rows d k := rfl

/-- A selection gives a row's value or, where no row has the key, the default. -/
theorem selectRow_cases (rows : List (α × β)) (d : β) (k : α) :
    (k ∉ rows.map Prod.fst ∧ selectRow rows d k = d) ∨ ∃ x ∈ rows, k = x.1 ∧ selectRow rows d k = x.2 := by
  induction rows with
  | nil => exact .inl ⟨List.not_mem_nil, rfl⟩
  | cons x rows ih =>
    rw [selectRow_cons]
    split_ifs with hk
    · exact .inr ⟨x, List.mem_cons_self, hk, rfl⟩
    · rcases ih with ⟨hnot, hd⟩ | ⟨z, hz, hkz, hval⟩
      · exact .inl ⟨by simpa [hk] using hnot, hd⟩
      · exact .inr ⟨z, List.mem_cons_of_mem x hz, hkz, hval⟩

/-- Where the keys are different, and the values too, a row's value comes from its key alone. -/
theorem selectRow_eq_row_iff (hkeys : (rows.map Prod.fst).Nodup) (hvals : (rows.map Prod.snd).Nodup)
    (hd : d ∉ rows.map Prod.snd) {x : α × β} (hx : x ∈ rows) : selectRow rows d k = x.2 ↔ k = x.1 := by
  rcases selectRow_cases rows d k with ⟨hnot, hval⟩ | ⟨z, hz, rfl, hval⟩ <;> rw [hval]
  · exact ⟨fun h => absurd (List.mem_map_of_mem hx) (h ▸ hd), fun h => absurd (List.mem_map_of_mem hx) (h ▸ hnot)⟩
  · exact ⟨fun h => congrArg Prod.fst (List.inj_on_of_nodup_map hvals hz hx h),
      fun h => congrArg Prod.snd (List.inj_on_of_nodup_map hkeys hz hx h)⟩

/-- A value that no row has is the default, selected where no row has the key. -/
theorem selectRow_eq_iff_of_not_mem (hy : y ∉ rows.map Prod.snd) :
    selectRow rows d k = y ↔ k ∉ rows.map Prod.fst ∧ d = y := by
  rcases selectRow_cases rows d k with ⟨hnot, hval⟩ | ⟨z, hz, rfl, hval⟩ <;> rw [hval]
  · exact ⟨fun h => ⟨hnot, h⟩, fun h => h.2⟩
  · exact ⟨fun h => absurd (List.mem_map_of_mem hz) (h ▸ hy), fun h => absurd (List.mem_map_of_mem hz) h.1⟩

end Rows

/-! ## The setup packet and the descriptor key (R112 to R116) -/

/-- The rows of the request byte, in the order of the decoder, with the operands of the packet (R113, R115). -/
def reqRows (p : Params) (lo hi : Byte) (len : BitVec 16) : List (Byte × Instr) :=
  [(p.reqSetAddress, .reqSetAddress (lo.setWidth 7)), (p.reqGetDescriptor, .reqGetDescriptor hi lo len),
   (p.reqGetStatus, .reqGetStatus), (p.reqClearFeature, .reqClearFeature), (p.reqSetFeature, .reqSetFeature),
   (p.reqSetDescriptor, .reqSetDescriptor), (p.reqGetConfiguration, .reqGetConfiguration),
   (p.reqSetConfiguration, .reqSetConfiguration), (p.reqGetInterface, .reqGetInterface),
   (p.reqSetInterface, .reqSetInterface), (p.reqSynchFrame, .reqSynchFrame)]

/-- The rows of the descriptor type tag (R116). -/
def descRows (p : Params) (i : Byte) (len : BitVec 16) : List (Byte × Instr) :=
  [(p.dtDevice, .getDescriptorDevice i len), (p.dtConfiguration, .getDescriptorConfiguration i len),
   (p.dtString, .getDescriptorString), (p.dtInterface, .getDescriptorInterface),
   (p.dtEndpoint, .getDescriptorEndpoint), (p.dtQualifier, .getDescriptorQualifier)]

theorem decodeSetup_eq_selectRow (p : Params) (S : BitVec 64) :
    decodeSetup p S = selectRow (reqRows p (setupValueLo S) (setupValueHi S) (setupLength S))
      (.reqUnknown (setupRequest S)) (setupRequest S) := rfl

theorem decodeDesc_eq_selectRow (p : Params) (t i : Byte) (len : BitVec 16) :
    decodeDesc p t i len = selectRow (descRows p i len) (.getDescriptorOther t) t := rfl

/-- The decoder compares the request codes in another order than R115 lists them. -/
theorem reqRows_keys (p : Params) (lo hi : Byte) (len : BitVec 16) :
    ((reqRows p lo hi len).map Prod.fst).Perm p.reqCodes :=
  (List.perm_append_comm (l₁ := [p.reqSetAddress, p.reqGetDescriptor])
    (l₂ := [p.reqGetStatus, p.reqClearFeature, p.reqSetFeature])).append_right
    [p.reqSetDescriptor, p.reqGetConfiguration, p.reqSetConfiguration, p.reqGetInterface, p.reqSetInterface,
     p.reqSynchFrame]

theorem reqRows_values_nodup (p : Params) (lo hi : Byte) (len : BitVec 16) :
    ((reqRows p lo hi len).map Prod.snd).Nodup := by simp [reqRows]

theorem reqUnknown_not_mem_reqRows (p : Params) (lo hi : Byte) (len : BitVec 16) (r : Byte) :
    Instr.reqUnknown r ∉ (reqRows p lo hi len).map Prod.snd := by simp [reqRows]

theorem descRows_keys (p : Params) (i : Byte) (len : BitVec 16) : (descRows p i len).map Prod.fst = p.dtCodes := rfl

theorem descRows_values_nodup (p : Params) (i : Byte) (len : BitVec 16) :
    ((descRows p i len).map Prod.snd).Nodup := by simp [descRows]

theorem getDescriptorOther_not_mem_descRows (p : Params) (i : Byte) (len : BitVec 16) (t : Byte) :
    Instr.getDescriptorOther t ∉ (descRows p i len).map Prod.snd := by simp [descRows]

/-- A request operation comes from exactly the packets whose request byte is its code (R113, R115). -/
theorem decode_setup8_row_iff {p : Params} (hwf : p.wf = true) (S : BitVec 64) {x : Byte × Instr}
    (hx : x ∈ reqRows p (setupValueLo S) (setupValueHi S) (setupLength S)) :
    decode p (.setup8 S) = .ok x.2 ↔ setupRequest S = x.1 := by
  obtain ⟨-, hcodes, -⟩ := p.codes_nodup hwf
  simp only [decode, Except.ok.injEq, decodeSetup_eq_selectRow]
  exact selectRow_eq_row_iff ((reqRows_keys _ _ _ _).nodup_iff.mpr hcodes) (reqRows_values_nodup _ _ _ _)
    (reqUnknown_not_mem_reqRows _ _ _ _ _) hx

theorem decode_setup8_unknown_iff (p : Params) (S : BitVec 64) (r : Byte) :
    decode p (.setup8 S) = .ok (.reqUnknown r) ↔ r ∉ p.reqCodes ∧ setupRequest S = r := by
  simp only [decode, Except.ok.injEq, decodeSetup_eq_selectRow]
  rw [selectRow_eq_iff_of_not_mem (reqUnknown_not_mem_reqRows _ _ _ _ _), (reqRows_keys _ _ _ _).mem_iff,
    Instr.reqUnknown.injEq]
  exact and_congr_left fun h => by rw [h]

/-- A descriptor operation comes from exactly its tag (R116). -/
theorem decode_desc_row_iff {p : Params} (hwf : p.wf = true) (t i : Byte) (len : BitVec 16) {x : Byte × Instr}
    (hx : x ∈ descRows p i len) : decode p (.desc t i len) = .ok x.2 ↔ t = x.1 := by
  obtain ⟨-, -, hcodes⟩ := p.codes_nodup hwf
  simp only [decode, Except.ok.injEq, decodeDesc_eq_selectRow]
  exact selectRow_eq_row_iff ((descRows_keys p i len).symm ▸ hcodes) (descRows_values_nodup _ _ _)
    (getDescriptorOther_not_mem_descRows _ _ _ _) hx

theorem decode_desc_other_iff (p : Params) (t u i : Byte) (len : BitVec 16) :
    decode p (.desc t i len) = .ok (.getDescriptorOther u) ↔ u ∉ p.dtCodes ∧ t = u := by
  simp only [decode, Except.ok.injEq, decodeDesc_eq_selectRow]
  rw [selectRow_eq_iff_of_not_mem (getDescriptorOther_not_mem_descRows _ _ _ _), descRows_keys,
    Instr.getDescriptorOther.injEq]
  exact and_congr_left fun h => by rw [h]

/-! ## The receive status word (R105 to R107) -/

/-- The rows of the status kind, in the order of the decoder (R106). -/
def rxRows (p : Params) : List (Word × (Word → Word → Word → Instr)) :=
  [(p.rxkSetupUpdate, .rxSetupUpdate), (p.rxkNak, .rxNak), (p.rxkDataUpdate, .rxDataUpdate),
   (p.rxkXferComplete, .rxXferComplete), (p.rxkSetupComplete, .rxSetupComplete)]

/-- The rows with the operands of one word. -/
def rxRowsAt (p : Params) (ep bc dt : Word) : List (Word × Instr) := (rxRows p).map fun x => (x.1, x.2 ep bc dt)

theorem decodeRxKind_eq_selectRow (p : Params) (kind ep bc dt : Word) :
    decodeRxKind p kind ep bc dt = selectRow (rxRowsAt p ep bc dt) (.rxReserved kind ep bc dt) kind := rfl

/-- The decoder compares the status kinds in another order than R106 lists them. -/
theorem rxRowsAt_keys (p : Params) (ep bc dt : Word) : ((rxRowsAt p ep bc dt).map Prod.fst).Perm p.rxkCodes :=
  List.perm_append_comm (l₁ := [p.rxkSetupUpdate])

theorem rxRowsAt_values_nodup (p : Params) (ep bc dt : Word) : ((rxRowsAt p ep bc dt).map Prod.snd).Nodup := by
  simp [rxRowsAt, rxRows]

theorem rxReserved_not_mem_rxRowsAt (p : Params) (ep bc dt kind ep' bc' dt' : Word) :
    Instr.rxReserved kind ep' bc' dt' ∉ (rxRowsAt p ep bc dt).map Prod.snd := by simp [rxRowsAt, rxRows]

/-- The operands that every receive status word supplies (R200). -/
def Instr.rxOperands : Instr → Option (Word × Word × Word)
  | .rxNak ep bc dt | .rxDataUpdate ep bc dt | .rxXferComplete ep bc dt => some (ep, bc, dt)
  | .rxSetupComplete ep bc dt | .rxSetupUpdate ep bc dt | .rxReserved _ ep bc dt => some (ep, bc, dt)
  | _ => none

theorem rxRows_operands {p : Params} {x : Word × (Word → Word → Word → Instr)} (hx : x ∈ rxRows p) (ep bc dt : Word) :
    (x.2 ep bc dt).rxOperands = some (ep, bc, dt) := by
  simp only [rxRows, List.mem_cons, List.not_mem_nil, or_false] at hx
  rcases hx with rfl | rfl | rfl | rfl | rfl <;> rfl

theorem decodeRxKind_operands (p : Params) (kind ep bc dt : Word) :
    (decodeRxKind p kind ep bc dt).rxOperands = some (ep, bc, dt) := by
  rw [decodeRxKind_eq_selectRow]
  rcases selectRow_cases (rxRowsAt p ep bc dt) (.rxReserved kind ep bc dt) kind with ⟨-, h⟩ | ⟨x, hx, -, h⟩ <;> rw [h]
  · rfl
  · obtain ⟨y, hy, rfl⟩ := List.mem_map.mp hx
    exact rxRows_operands hy ep bc dt

/-- A status operation comes from exactly the words whose kind is its code, with the word's operands (R105, R106). -/
theorem decode_rxsts_row_iff {p : Params} (hwf : p.wf = true) (w ep bc dt : Word)
    {x : Word × (Word → Word → Word → Instr)} (hx : x ∈ rxRows p) :
    decode p (.rxsts w) = .ok (x.2 ep bc dt) ↔
      p.fieldOf .rxStatusKind w = x.1 ∧ p.fieldOf .rxEndpoint w = ep ∧ p.fieldOf .rxByteCount w = bc ∧
        p.fieldOf .rxDataToggle w = dt := by
  obtain ⟨hcodes, -, -⟩ := p.codes_nodup hwf
  have hrow (ep bc dt : Word) : decodeRxKind p (p.fieldOf .rxStatusKind w) ep bc dt = x.2 ep bc dt ↔
      p.fieldOf .rxStatusKind w = x.1 := by
    rw [decodeRxKind_eq_selectRow]
    exact selectRow_eq_row_iff (x := (x.1, x.2 ep bc dt)) ((rxRowsAt_keys _ _ _ _).nodup_iff.mpr hcodes)
      (rxRowsAt_values_nodup _ _ _ _)
      (rxReserved_not_mem_rxRowsAt _ _ _ _ _ _ _ _) (List.mem_map_of_mem hx)
  simp only [decode, Except.ok.injEq, decodeRxsts]
  constructor
  · intro h
    have hops := congrArg Instr.rxOperands h
    simp only [decodeRxKind_operands, rxRows_operands hx, Option.some.injEq, Prod.mk.injEq] at hops
    obtain ⟨rfl, rfl, rfl⟩ := hops
    exact ⟨(hrow _ _ _).mp h, rfl, rfl, rfl⟩
  · rintro ⟨hkind, rfl, rfl, rfl⟩
    exact (hrow _ _ _).mpr hkind

theorem decode_rxsts_reserved_iff (p : Params) (w kind ep bc dt : Word) :
    decode p (.rxsts w) = .ok (.rxReserved kind ep bc dt) ↔
      kind ∉ p.rxkCodes ∧ p.fieldOf .rxStatusKind w = kind ∧ p.fieldOf .rxEndpoint w = ep ∧
        p.fieldOf .rxByteCount w = bc ∧ p.fieldOf .rxDataToggle w = dt := by
  simp only [decode, Except.ok.injEq, decodeRxsts, decodeRxKind_eq_selectRow]
  rw [selectRow_eq_iff_of_not_mem (rxReserved_not_mem_rxRowsAt _ _ _ _ _ _ _ _), (rxRowsAt_keys _ _ _ _).mem_iff,
    Instr.rxReserved.injEq]
  exact and_congr_left fun h => by rw [h.1]

theorem mem_rxFields_iff (f : Field) : f ∈ RegName.rxStsPop.fields ↔
    f = .rxEndpoint ∨ f = .rxByteCount ∨ f = .rxDataToggle ∨ f = .rxStatusKind := by simp [RegName.fields]

/-- The four fields of a receive status word are fields of its register (R105). -/
theorem rxFields_mem (p : Params) {f : Field} (hf : f ∈ RegName.rxStsPop.fields) : f ∈ p.fieldsOf (.glob .rxStsPop) :=
  p.mem_fieldsOf _ f rfl hf (.inl rfl)

/-- A field of a word that is put together from two. -/
theorem Params.fieldOf_or (p : Params) (f : Field) (v w : Word) (n : EpNum) :
    p.fieldOf f (v ||| w) n = p.fieldOf f v n ||| p.fieldOf f w n := by
  refine BitVec.eq_of_getLsbD_eq fun j _ => ?_
  simp only [p.fieldOf_getLsbD, BitVec.getLsbD_or, Bool.and_or_distrib_left]

/-- A value of the field's width, put in place, is read back, and the other fields of the word are 0. -/
theorem fieldOf_place_rx {p : Params} (hwf : p.wf = true) {f g : Field} (hf : f ∈ RegName.rxStsPop.fields)
    (hg : g ∈ RegName.rxStsPop.fields) {v : Word} (hv : v.toNat < 2 ^ p.width g) :
    p.fieldOf f (p.place g v) = if f = g then v else 0 := by
  split_ifs with h
  · subst h
    exact p.fieldOf_place f v (p.lo_add_width hwf (.glob .rxStsPop) f (rxFields_mem p hf)) hv
  · have hzero := p.fieldOf_or_place f g 0 v hv
      (p.fields_apart hwf (.glob .rxStsPop) f g (rxFields_mem p hf) (rxFields_mem p hg) h)
    simpa [Params.fieldOf, truncTo] using hzero

/-- The fields of an encoded receive status word are the values that were encoded (R105). -/
theorem fieldOf_encodeRxsts {p : Params} (hwf : p.wf = true) {kind ep bc dt : Word}
    (hkind : kind.toNat < 2 ^ p.width .rxStatusKind) (hops : p.rxOperandsOk ep bc dt = true) :
    p.fieldOf .rxStatusKind (encodeRxsts p kind ep bc dt) = kind ∧
      p.fieldOf .rxEndpoint (encodeRxsts p kind ep bc dt) = ep ∧
      p.fieldOf .rxByteCount (encodeRxsts p kind ep bc dt) = bc ∧
      p.fieldOf .rxDataToggle (encodeRxsts p kind ep bc dt) = dt := by
  simp only [Params.rxOperandsOk, Bool.and_eq_true, decide_eq_true_eq] at hops
  obtain ⟨⟨hep, hbc⟩, hdt⟩ := hops
  simp [encodeRxsts, p.fieldOf_or, fieldOf_place_rx hwf, mem_rxFields_iff, hkind, hep, hbc, hdt]

/-! ## The aggregate status word (R101 to R104, R181 to R184) -/

/-- A row of the format GINT is a row ACK_ONLY or the handler of a handled event (R182, R184). -/
theorem gint_cases (i : Instr) (hi : Laws.tableFormat i = some .gint) :
    (∃ j, ackOnlyAt j = some i) ∨ ∃ f, eventInstr f = some i := by
  match i, hi with
  | .ackOnlyB0, _ => exact .inl ⟨0, rfl⟩
  | .ackOnlyB2, _ => exact .inl ⟨2, rfl⟩
  | .ackOnlyB3, _ => exact .inl ⟨3, rfl⟩
  | .ackOnlyB5, _ => exact .inl ⟨5, rfl⟩
  | .ackOnlyB6, _ => exact .inl ⟨6, rfl⟩
  | .ackOnlyB7, _ => exact .inl ⟨7, rfl⟩
  | .ackOnlyB8, _ => exact .inl ⟨8, rfl⟩
  | .ackOnlyB9, _ => exact .inl ⟨9, rfl⟩
  | .ackOnlyB10, _ => exact .inl ⟨10, rfl⟩
  | .ackOnlyB11, _ => exact .inl ⟨11, rfl⟩
  | .ackOnlyB14, _ => exact .inl ⟨14, rfl⟩
  | .ackOnlyB15, _ => exact .inl ⟨15, rfl⟩
  | .ackOnlyB16, _ => exact .inl ⟨16, rfl⟩
  | .ackOnlyB17, _ => exact .inl ⟨17, rfl⟩
  | .ackOnlyB20, _ => exact .inl ⟨20, rfl⟩
  | .ackOnlyB21, _ => exact .inl ⟨21, rfl⟩
  | .ackOnlyB22, _ => exact .inl ⟨22, rfl⟩
  | .ackOnlyB23, _ => exact .inl ⟨23, rfl⟩
  | .ackOnlyB24, _ => exact .inl ⟨24, rfl⟩
  | .ackOnlyB25, _ => exact .inl ⟨25, rfl⟩
  | .ackOnlyB26, _ => exact .inl ⟨26, rfl⟩
  | .ackOnlyB27, _ => exact .inl ⟨27, rfl⟩
  | .ackOnlyB28, _ => exact .inl ⟨28, rfl⟩
  | .ackOnlyB29, _ => exact .inl ⟨29, rfl⟩
  | .ackOnlyB31, _ => exact .inl ⟨31, rfl⟩
  | .evModeMismatch, _ => exact .inr ⟨.mmis, rfl⟩
  | .evRxStatus, _ => exact .inr ⟨.rxflvl, rfl⟩
  | .evUsbReset, _ => exact .inr ⟨.usbrst, rfl⟩
  | .evEnumDone, _ => exact .inr ⟨.enumdne, rfl⟩
  | .evInEp, _ => exact .inr ⟨.iepint, rfl⟩
  | .evOutEp, _ => exact .inr ⟨.oepint, rfl⟩
  | .evSession, _ => exact .inr ⟨.srqint, rfl⟩

/-- The word of a row ACK_ONLY is that of its bit, and the row is well formed where that bit has no handler (R184). -/
theorem ackOnlyAt_encode {j : Nat} {i : Instr} (h : ackOnlyAt j = some i) (p : Params) :
    j < 32 ∧ encode p i = some (.gint 0 (oneHot j)) ∧ i.wf p = (p.handlerAt j).isNone := by
  unfold ackOnlyAt at h
  split at h <;> cases h <;> exact ⟨by decide, rfl, rfl⟩

/-- The word of a handler is that of its event's bit (R182). -/
theorem eventInstr_encode {f : Field} {i : Instr} (h : eventInstr f = some i) (p : Params) :
    f ∈ gintFields ∧ encode p i = some (.gint 0 (p.ackWord f)) ∧ i.wf p = true := by
  unfold eventInstr at h
  split at h <;> cases h <;> exact ⟨by decide, rfl, rfl⟩

/-- A one-hot word decodes as its bit does. -/
theorem decode_gint_oneHot (p : Params) {j : Nat} (hj : j < 32) :
    decode p (.gint 0 (oneHot j)) = decodeGintBit p j := by
  simp [decode, decodeGint, nextSet_oneHot j hj]

theorem decodeGintBit_unhandled {p : Params} {j : Nat} {i : Instr} (hnone : p.handlerAt j = none)
    (h : ackOnlyAt j = some i) : decodeGintBit p j = .ok i := by simp [decodeGintBit, hnone, h]

theorem decodeGintBit_handled {p : Params} {j : Nat} {f : Field} {i : Instr} (hf : p.handlerAt j = some f)
    (h : eventInstr f = some i) : decodeGintBit p j = .ok i := by simp [decodeGintBit, hf, h]

/-- The bit of a handled event lies inside the word (R8 (a)). -/
theorem gintField_lo_lt {p : Params} (hwf : p.wf = true) {f : Field} (hf : f ∈ gintFields) : p.lo f < 32 := by
  have hin := p.lo_add_width hwf (.glob .intSts) f (p.mem_fieldsOf _ f rfl hf (.inl rfl))
  have hone : ∀ g ∈ gintFields, g.width = some 1 := by decide
  have hwidth : p.width f = 1 := p.width_fixed f 0 1 (hone f hf)
  simp only [Reg.glob_n] at hin
  omega

theorem decode_encode_gint {p : Params} {i : Instr} {fw : FetchWord} (hwf : p.wf = true) (hi : i.wf p = true)
    (henc : encode p i = some fw) (hformat : Laws.tableFormat i = some .gint) : decode p fw = .ok i := by
  rcases gint_cases i hformat with ⟨j, hrow⟩ | ⟨f, hev⟩
  · obtain ⟨hj, hword, hwfi⟩ := ackOnlyAt_encode hrow p
    cases henc.symm.trans hword
    rw [decode_gint_oneHot p hj]
    exact decodeGintBit_unhandled (Option.isNone_iff_eq_none.mp (hwfi ▸ hi)) hrow
  · obtain ⟨hf, hword, -⟩ := eventInstr_encode hev p
    cases henc.symm.trans hword
    rw [Params.ackWord, decode_gint_oneHot p (gintField_lo_lt hwf hf)]
    exact decodeGintBit_handled (p.handlerAt_lo hwf f hf) hev

/-! ## Reading an operation back from its word (R100, R122) -/

theorem decode_encodeRxsts {p : Params} (hwf : p.wf = true) {ep bc dt : Word} (hops : p.rxOperandsOk ep bc dt = true)
    {x : Word × (Word → Word → Word → Instr)} (hx : x ∈ rxRows p) :
    decode p (.rxsts (encodeRxsts p x.1 ep bc dt)) = .ok (x.2 ep bc dt) := by
  have hcode : x.1 ∈ p.rxkCodes := (rxRowsAt_keys p ep bc dt).mem_iff.mp (by simpa [rxRowsAt] using ⟨x.2, hx⟩)
  exact (decode_rxsts_row_iff hwf _ ep bc dt hx).mpr (fieldOf_encodeRxsts hwf (p.rxk_lt hwf _ hcode) hops)

theorem decode_encode_rxsts {p : Params} {i : Instr} {fw : FetchWord} (hwf : p.wf = true) (hi : i.wf p = true)
    (henc : encode p i = some fw) (hformat : Laws.tableFormat i = some .rxsts) : decode p fw = .ok i := by
  match i, hformat with
  | .rxNak ep bc dt, _ => cases henc; exact decode_encodeRxsts hwf hi (x := (p.rxkNak, .rxNak)) (by simp [rxRows])
  | .rxDataUpdate ep bc dt, _ =>
    cases henc; exact decode_encodeRxsts hwf hi (x := (p.rxkDataUpdate, .rxDataUpdate)) (by simp [rxRows])
  | .rxXferComplete ep bc dt, _ =>
    cases henc; exact decode_encodeRxsts hwf hi (x := (p.rxkXferComplete, .rxXferComplete)) (by simp [rxRows])
  | .rxSetupComplete ep bc dt, _ =>
    cases henc; exact decode_encodeRxsts hwf hi (x := (p.rxkSetupComplete, .rxSetupComplete)) (by simp [rxRows])
  | .rxSetupUpdate ep bc dt, _ =>
    cases henc; exact decode_encodeRxsts hwf hi (x := (p.rxkSetupUpdate, .rxSetupUpdate)) (by simp [rxRows])
  | .rxReserved kind ep bc dt, _ =>
    cases henc
    obtain ⟨⟨hcode, hkind⟩, hops⟩ : (kind ∉ p.rxkCodes ∧ kind.toNat < 2 ^ p.width .rxStatusKind) ∧
        p.rxOperandsOk ep bc dt = true := by simpa [Instr.wf] using hi
    exact (decode_rxsts_reserved_iff p _ kind ep bc dt).mpr ⟨hcode, fieldOf_encodeRxsts hwf hkind hops⟩

theorem decode_encode_epagg {p : Params} {i : Instr} {fw : FetchWord} (hwf : p.wf = true)
    (henc : encode p i = some fw) (hformat : Laws.tableFormat i = some .epagg) : decode p fw = .ok i := by
  have hin (f : Field) (hf : f ∈ RegName.epInt.fields) : p.lo f + p.width f ≤ 32 :=
    p.lo_add_width hwf (.glob .epInt) f (p.mem_fieldsOf _ f rfl hf (.inl rfl))
  match i, hformat with
  | .epaggOut m, _ => cases henc; simp only [decode, p.extract_place .outPending m (hin _ (by decide))]
  | .epaggIn m, _ => cases henc; simp only [decode, p.extract_place .inPending m (hin _ (by decide))]

/-- The one-hot word of the bit at a place of an inspection order decodes to the operation at that place (R109, R110). -/
theorem decodeEvents_ackWord {p : Params} (hwf : p.wf = true) (n : EpNum) {name : RegName}
    (hlegal : (Reg.mk name n).legal = true) (hbits : ∀ f ∈ name.fields, f.width = some 1 ∧ f.ofEp0 = false)
    (hnodup : name.fields.Nodup) {instrAt : Nat → Option Instr} (k : Nat) {f : Field} {i : Instr}
    (hf : name.fields[k]? = some f) (hi : instrAt k = some i) :
    decodeEvents p n name.fields instrAt 0 (p.ackWord f n) = .ok i := by
  have hnext := nextEvent_ackWord p hwf ⟨name, n⟩ name.fields
    (fun g hg => p.mem_fieldsOf _ g hlegal hg (.inr (hbits g hg).2)) (fun g hg => (hbits g hg).1) hnodup k f hf
  dsimp only at hnext
  simp only [decodeEvents, hnext, hi]

theorem decode_encode_epevt {p : Params} {i : Instr} {fw : FetchWord} (hwf : p.wf = true)
    (henc : encode p i = some fw) (hformat : Laws.tableFormat i = some .epevt) : decode p fw = .ok i := by
  have hout (n : EpNum) (k : Nat) {f : Field} {i : Instr} (hf : outEventFields[k]? = some f)
      (hi : outEventInstr n k = some i) : decode p (.outEvt n 0 (p.ackWord f n)) = .ok i :=
    decodeEvents_ackWord hwf n (name := .outInt) rfl (by decide) (by decide) k hf hi
  have hin (n : EpNum) (k : Nat) {f : Field} {i : Instr} (hf : inEventFields[k]? = some f)
      (hi : inEventInstr n k = some i) : decode p (.inEvt n 0 (p.ackWord f n)) = .ok i :=
    decodeEvents_ackWord hwf n (name := .inInt) rfl (by decide) (by decide) k hf hi
  match i, hformat with
  | .oepXfrc n, _ => cases henc; exact hout n 0 rfl rfl
  | .oepEpdisd n, _ => cases henc; exact hout n 1 rfl rfl
  | .oepStup n, _ => cases henc; exact hout n 2 rfl rfl
  | .oepOtepdis n, _ => cases henc; exact hout n 3 rfl rfl
  | .oepNak n, _ => cases henc; exact hout n 4 rfl rfl
  | .iepXfrc n, _ => cases henc; exact hin n 0 rfl rfl
  | .iepEpdisd n, _ => cases henc; exact hin n 1 rfl rfl
  | .iepNak n, _ => cases henc; exact hin n 2 rfl rfl

theorem decode_encodeSetup {p : Params} (hwf : p.wf = true) (lo hi : Byte) (len : BitVec 16) {c : Byte} {i : Instr}
    (hx : (c, i) ∈ reqRows p lo hi len) : decode p (.setup8 (encodeSetup c lo hi len)) = .ok i := by
  obtain ⟨hreq, hhi, hlo, hlen⟩ := encodeSetup_views c lo hi len
  exact (decode_setup8_row_iff hwf _ (by rwa [hlo, hhi, hlen])).mpr hreq

theorem decode_encode_setup8 {p : Params} {i : Instr} {fw : FetchWord} (hwf : p.wf = true) (hi : i.wf p = true)
    (henc : encode p i = some fw) (hformat : Laws.tableFormat i = some .setup8) : decode p fw = .ok i := by
  match i, hformat with
  | .reqSetAddress _, _ | .reqGetDescriptor _ _ _, _ | .reqGetStatus, _ | .reqClearFeature, _ | .reqSetFeature, _
  | .reqSetDescriptor, _ | .reqGetConfiguration, _ | .reqSetConfiguration, _ | .reqGetInterface, _ | .reqSetInterface, _
  | .reqSynchFrame, _ =>
    cases henc; exact decode_encodeSetup hwf _ _ _ (by simp [reqRows])
  | .reqUnknown r, _ =>
    cases henc
    exact (decode_setup8_unknown_iff p _ r).mpr ⟨by simpa [Instr.wf] using hi, (encodeSetup_views r 0 0 0).1⟩
  | .getDescriptorDevice ix len, _ | .getDescriptorConfiguration ix len, _ =>
    cases henc; exact (decode_desc_row_iff hwf _ ix len (x := (_, _)) (by simp [descRows])).mpr rfl
  | .getDescriptorString, _ | .getDescriptorInterface, _ | .getDescriptorEndpoint, _ | .getDescriptorQualifier, _ =>
    cases henc; exact (decode_desc_row_iff hwf _ 0 0 (x := (_, _)) (by simp [descRows])).mpr rfl
  | .getDescriptorOther t, _ =>
    cases henc
    exact (decode_desc_other_iff p t t 0 0).mpr ⟨by simpa [Instr.wf] using hi, rfl⟩

/-- An operation without a format has no word (R122). -/
theorem encode_of_no_format {i : Instr} (hformat : Laws.tableFormat i = none) (p : Params) : encode p i = none := by
  match i, hformat with
  | .reset, _ | .init _, _ | .irq, _ | .dispatch, _ | .flushTx, _ | .flushRx, _ | .writeTx _ _, _ | .rearmOut _, _
  | .zlp, _ | .armSetupOut0, _ | .ep0Setup, _ | .unsupported, _ | .stallEp0, _ | .fatal _, _ | .txabort _, _ => rfl

/-- Settles O1, format by format: the word of an operation of each format is read back at its place. -/
theorem decodeOfEncode : Obligations.DecodeOfEncode := by
  intro p i fw hwf hi henc
  cases hformat : Laws.tableFormat i with
  | none => cases henc.symm.trans (encode_of_no_format hformat p)
  | some format =>
    cases format with
    | gint => exact decode_encode_gint hwf hi henc hformat
    | rxsts => exact decode_encode_rxsts hwf hi henc hformat
    | epagg => exact decode_encode_epagg hwf henc hformat
    | epevt => exact decode_encode_epevt hwf henc hformat
    | setup8 => exact decode_encode_setup8 hwf hi henc hformat

/-! ## What a decoder gives is well formed (R105 to R107, R115 to R117, R184) -/

theorem decodeGintBit_wf {p : Params} {j : Nat} {i : Instr} (h : decodeGintBit p j = .ok i) : i.wf p = true := by
  rcases decodeGintBit_ok h with ⟨f, -, hev⟩ | ⟨hnone, hrow⟩
  · exact (eventInstr_encode hev p).2.2
  · rw [(ackOnlyAt_encode hrow p).2.2, hnone]; rfl

theorem outEventInstr_wf {n : EpNum} {k : Nat} {i : Instr} (h : outEventInstr n k = some i) (p : Params) :
    i.wf p = true := by
  unfold outEventInstr at h
  split at h <;> cases h <;> rfl

theorem inEventInstr_wf {n : EpNum} {k : Nat} {i : Instr} (h : inEventInstr n k = some i) (p : Params) :
    i.wf p = true := by
  unfold inEventInstr at h
  split at h <;> cases h <;> rfl

theorem rxRows_wf {p : Params} {x : Word × (Word → Word → Word → Instr)} (hx : x ∈ rxRows p) (ep bc dt : Word) :
    (x.2 ep bc dt).wf p = p.rxOperandsOk ep bc dt := by
  simp only [rxRows, List.mem_cons, List.not_mem_nil, or_false] at hx
  rcases hx with rfl | rfl | rfl | rfl | rfl <;> rfl

theorem reqRows_wf {p : Params} {lo hi : Byte} {len : BitVec 16} {x : Byte × Instr} (hx : x ∈ reqRows p lo hi len) :
    x.2.wf p = true := by
  simp only [reqRows, List.mem_cons, List.not_mem_nil, or_false] at hx
  rcases hx with rfl | rfl | rfl | rfl | rfl | rfl | rfl | rfl | rfl | rfl | rfl <;> rfl

theorem descRows_wf {p : Params} {i : Byte} {len : BitVec 16} {x : Byte × Instr} (hx : x ∈ descRows p i len) :
    x.2.wf p = true := by
  simp only [descRows, List.mem_cons, List.not_mem_nil, or_false] at hx
  rcases hx with rfl | rfl | rfl | rfl | rfl | rfl <;> rfl

/-- The operands of a status word are values of their fields, and a kind with no row is none of the five codes. -/
theorem decodeRxsts_wf (p : Params) (w : Word) : (decodeRxsts p w).wf p = true := by
  have hops : p.rxOperandsOk (p.fieldOf .rxEndpoint w) (p.fieldOf .rxByteCount w) (p.fieldOf .rxDataToggle w) =
      true := by
    simp [Params.rxOperandsOk, p.fieldOf_lt]
  rw [decodeRxsts, decodeRxKind_eq_selectRow]
  rcases selectRow_cases (rxRowsAt p (p.fieldOf .rxEndpoint w) (p.fieldOf .rxByteCount w) (p.fieldOf .rxDataToggle w))
    (.rxReserved (p.fieldOf .rxStatusKind w) _ _ _) (p.fieldOf .rxStatusKind w) with
    ⟨hnot, h⟩ | ⟨x, hx, -, h⟩ <;> rw [h]
  · rw [(rxRowsAt_keys _ _ _ _).mem_iff] at hnot
    simp [Instr.wf, hnot, hops, p.fieldOf_lt]
  · obtain ⟨y, hy, rfl⟩ := List.mem_map.mp hx
    exact (rxRows_wf hy _ _ _).trans hops

/-- A request with no row is none of the eleven codes. -/
theorem decodeSetup_wf (p : Params) (S : BitVec 64) : (decodeSetup p S).wf p = true := by
  rw [decodeSetup_eq_selectRow]
  rcases selectRow_cases (reqRows p (setupValueLo S) (setupValueHi S) (setupLength S)) (.reqUnknown (setupRequest S))
    (setupRequest S) with ⟨hnot, h⟩ | ⟨x, hx, -, h⟩ <;> rw [h]
  · rw [(reqRows_keys _ _ _ _).mem_iff] at hnot
    simp [Instr.wf, hnot]
  · exact reqRows_wf hx

/-- A tag with no row is none of the six. -/
theorem decodeDesc_wf (p : Params) (t i : Byte) (len : BitVec 16) : (decodeDesc p t i len).wf p = true := by
  rw [decodeDesc_eq_selectRow]
  rcases selectRow_cases (descRows p i len) (.getDescriptorOther t) t with ⟨hnot, h⟩ | ⟨x, hx, -, h⟩ <;> rw [h]
  · rw [descRows_keys] at hnot
    simp [Instr.wf, hnot]
  · exact descRows_wf hx

theorem decode_wf {p : Params} {fw : FetchWord} {i : Instr} (h : decode p fw = .ok i) : i.wf p = true := by
  cases fw with
  | gint start w =>
    obtain ⟨j, -, hbit⟩ := decodeGint_ok h
    exact decodeGintBit_wf hbit
  | rxsts w => cases h; exact decodeRxsts_wf p w
  | epaggOut w => cases h; rfl
  | epaggIn w => cases h; rfl
  | outEvt n start w =>
    obtain ⟨k, -, hk⟩ := decodeEvents_ok h
    exact outEventInstr_wf hk p
  | inEvt n start w =>
    obtain ⟨k, -, hk⟩ := decodeEvents_ok h
    exact inEventInstr_wf hk p
  | setup8 S => cases h; exact decodeSetup_wf p S
  | desc t ix len => cases h; exact decodeDesc_wf p t ix len

/-- Settles O2: the decoders give well-formed operations, and each selection is by its code alone. -/
theorem decodedIsWellFormed : Obligations.DecodedIsWellFormed := by
  refine ⟨fun p fw i => decode_wf, fun p hwf => ⟨fun w ep bc dt x hx => ?_, decode_rxsts_reserved_iff p,
    fun S x hx => ?_, decode_setup8_unknown_iff p, fun t i len x hx => decode_desc_row_iff hwf t i len hx,
    decode_desc_other_iff p, fun _ => ⟨rfl, rfl⟩⟩⟩
  · exact decode_rxsts_row_iff hwf w ep bc dt
      ((List.perm_append_comm (l₁ := [(p.rxkSetupUpdate, Instr.rxSetupUpdate)])).mem_iff.mpr hx)
  · refine decode_setup8_row_iff hwf S ?_
    simp only [reqRows, List.mem_cons, List.not_mem_nil, or_false] at hx ⊢
    tauto

/-! ## No word is illegal (R104, R107, R111, R117) -/

/-- Under the default binding every bit has a handler or a row ACK_ONLY. -/
theorem decodeGintBit_default : ∀ j < 32, (decodeGintBit Params.default j).isOk = true := by decide +kernel

theorem decode_gint_error_default {start : Nat} {w : Word} {e : Reject}
    (h : decode Params.default (.gint start w) = .error e) :
    e = .nothingLeft ∧ ∀ j, start ≤ j → j < 32 → w.getLsbD j = false := by
  change decodeGint Params.default start w = .error e at h
  cases hnext : nextSet w start with
  | none =>
    simp only [decodeGint, hnext] at h
    cases h
    exact ⟨rfl, (nextSet_eq_none_iff w start).mp hnext⟩
  | some j =>
    obtain ⟨-, hj, -⟩ := (nextSet_eq_some_iff w start j).mp hnext
    have hok := decodeGintBit_default j hj
    simp only [decodeGint, hnext] at h
    simp [h, Except.isOk, Except.toBool] at hok

/-- Where every inspected place has an operation, an event decoder gives nothing only where no inspected bit is left. -/
theorem decodeEvents_error_bits {p : Params} {n : EpNum} {evs : List Field} {instrAt : Nat → Option Instr} {start : Nat}
    {w : Word} {e : Reject} (hall : ∀ k < evs.length, (instrAt k).isSome = true)
    (h : decodeEvents p n evs instrAt start w = .error e) (k : Nat) (f : Field) (hk : start ≤ k)
    (hf : evs[k]? = some f) : w.getLsbD (p.lo f n) = false := by
  cases hnext : p.nextEvent n evs w start with
  | none => exact (nextEvent_eq_none_iff p n evs w start).mp hnext k f hk hf
  | some m =>
    obtain ⟨-, ⟨g, hg, -⟩, -⟩ := (nextEvent_eq_some_iff p n evs w start m).mp hnext
    obtain ⟨i, hi⟩ := Option.isSome_iff_exists.mp (hall m (List.getElem?_eq_some_iff.mp hg).1)
    simp [decodeEvents, hnext, hi] at h

/-- Settles O3: the formats without a loop always decode, and a loop's decoder gives nothing only at its end. -/
theorem noIllegalWord : Obligations.NoIllegalWord := by
  refine fun p => ⟨fun w => ⟨_, rfl⟩, fun w => ⟨_, rfl⟩, fun w => ⟨_, rfl⟩, fun S => ⟨_, rfl⟩, fun t i len => ⟨_, rfl⟩,
    fun start w e => decode_gint_error_default, fun n start w e h => ?_, fun n start w e h => ?_⟩
  · refine decodeEvents_error_bits (instrAt := outEventInstr n) (fun k hk => ?_) h
    match k, hk with
    | 0, _ | 1, _ | 2, _ | 3, _ | 4, _ => rfl
  · refine decodeEvents_error_bits (instrAt := inEventInstr n) (fun k hk => ?_) h
    match k, hk with
    | 0, _ | 1, _ | 2, _ => rfl

/-- Settles O4, by evaluation. -/
theorem decodeSpecWords : Obligations.DecodeSpecWords := by
  unfold Obligations.DecodeSpecWords
  decide +kernel

end Sys2Proof
end

section
/-! PROOFS. A pass over bits without handler (R104, R181, R184, R186, R284), and the lowest pending endpoint (R108,
R250, R255). -/

namespace Sys2Proof

/-! ## The bits that the dispatcher still has to serve (R181) -/

/-- The set bits at or above `start`, ascending. -/
def pendingBits (w : Word) (start : Nat) : List Nat := (List.range' start (32 - start)).filter fun j => w.getLsbD j

theorem pendingBits_zero (w : Word) : pendingBits w 0 = (List.range 32).filter fun j => w.getLsbD j := by
  rw [pendingBits, List.range_eq_range']

theorem pendingBits_of_nextSet_none {w : Word} {start : Nat} (h : nextSet w start = none) :
    pendingBits w start = [] := by
  have hclear := (nextSet_eq_none_iff w start).mp h
  refine List.filter_eq_nil_iff.mpr fun j hj => ?_
  rw [List.mem_range'_1] at hj
  simp [hclear j hj.1 (by omega)]

/-- The next set bit is the first of them, and the others are those above it. -/
theorem pendingBits_of_nextSet {w : Word} {start j : Nat} (h : nextSet w start = some j) :
    pendingBits w start = j :: pendingBits w (j + 1) := by
  obtain ⟨hstart, hj, hset, hlow⟩ := (nextSet_eq_some_iff w start j).mp h
  have hsplit : List.range' start (32 - start) =
      List.range' start (j - start) ++ j :: List.range' (j + 1) (32 - (j + 1)) := by
    have happend := List.range'_append_1 (s := start) (m := j - start) (n := 32 - (j + 1) + 1)
    rw [List.range'_succ, show start + (j - start) = j by omega] at happend
    rw [happend]
    congr 1
    omega
  have hbelow : (List.range' start (j - start)).filter (fun k => w.getLsbD k) = [] := by
    refine List.filter_eq_nil_iff.mpr fun k hk => ?_
    rw [List.mem_range'_1] at hk
    simp [hlow k hk.1 (by omega)]
  simp only [pendingBits, hsplit, List.filter_append, hbelow, List.nil_append, List.filter_cons, hset, if_true]

/-! What the list of the bits left says of the search for the next one. -/

theorem nextSet_none_of_pendingBits {w : Word} {start : Nat} (h : pendingBits w start = []) :
    nextSet w start = none := by
  cases hnext : nextSet w start with
  | none => rfl
  | some j => cases (pendingBits_of_nextSet hnext).symm.trans h

theorem nextSet_of_pendingBits {w : Word} {start j : Nat} {bits : List Nat} (h : pendingBits w start = j :: bits) :
    nextSet w start = some j ∧ pendingBits w (j + 1) = bits := by
  cases hnext : nextSet w start with
  | none => cases (pendingBits_of_nextSet_none hnext).symm.trans h
  | some k =>
    obtain ⟨rfl, hrest⟩ := List.cons.inj ((pendingBits_of_nextSet hnext).symm.trans h)
    exact ⟨rfl, hrest⟩

end Sys2Proof

namespace Sys2Proof.Machine

/-! ## The loop over bits without handler (R104, R181, R184) -/

/-- A row ACK_ONLY makes the dispatcher's own write of its bit (R184). -/
theorem exec_ackOnlyAt {j : Nat} {i : Instr} (h : ackOnlyAt j = some i) (s : State) :
    exec i s = .next (s.ackGint j) := by
  unfold ackOnlyAt at h
  split at h <;> cases h <;> rfl

/-- A set bit without handler is acknowledged, by its row or by the dispatcher itself (log 20), and the loop goes on
above it. -/
theorem resume_scan_unhandled {s : State} {start j : Nat} (hj : nextSet s.snap start = some j)
    (hnone : s.par.handlerAt j = none) :
    resume (.scan start) s = .next (({ s with idx := idxOf j }.goTo [.scan (j + 1)]).ackGint j) := by
  have hword : (Frame.scan start).word s = some (.gint start s.snap) := rfl
  have henter : s.enter (.gint start s.snap) = { s with idx := idxOf j }.goTo [.scan (j + 1)] := by
    simp only [State.enter, hj, scanPlaces_unhandled hnone]
  simp only [resume, hword, State.decodeExec, decode, decodeGint, hj, decodeGintBit, hnone]
  cases hrow : ackOnlyAt j with
  | none => rfl
  | some i => simp only [henter, exec_ackOnlyAt hrow]

/-- Where no set bit is left the loop ends, with `idx` at 32 (log 22). -/
theorem resume_scan_end {s : State} {start : Nat} (h : nextSet s.snap start = none) :
    resume (.scan start) s = .next { s with idx := 32 } := by
  have hword : (Frame.scan start).word s = some (.gint start s.snap) := rfl
  simp only [resume, hword, State.decodeExec, decode, decodeGint, h]
  rfl

theorem run_of_step {s t : State} (h : step s = .next t) (k : Nat) :
    Host.Core.run Sys2Proof.core (k + 1) s = Host.Core.run Sys2Proof.core k t := by
  have hcore : Sys2Proof.core.step s = .next t := h
  simp only [Host.Core.run, hcore]

/-- In the loop of a pass, about to look at the bits from `start` on, with no input pending. -/
structure State.Scanning (s : State) (start : Nat) : Prop where
  accepted : s.par.wf = true
  noReset : s.resetIn = none
  noCalls : s.calls = []
  position : s.cont = [.scan start, .irqExit]

/-- The state after bit `j` has been acknowledged in that loop. -/
def State.scanned (s : State) (j : Nat) : State :=
  { s with
    idx := idxOf j
    cont := [.scan (j + 1), .irqExit]
    trace := s.trace ++ [.wr ⟨.intSts, 0⟩ (1#32 <<< j)] }

section Loop
variable {s : State} {start j : Nat}

theorem State.Scanning.scanned (h : s.Scanning start) (j : Nat) : (s.scanned j).Scanning (j + 1) :=
  ⟨h.accepted, h.noReset, h.noCalls, rfl⟩

theorem State.Scanning.step_eq (h : s.Scanning start) :
    step s = resume (.scan start) { s with cont := [.irqExit] } :=
  step_at s _ _ h.accepted h.noReset (by simp [h.noCalls]) h.position

theorem State.Scanning.step_unhandled (h : s.Scanning start) (hj : nextSet s.snap start = some j)
    (hnone : s.par.handlerAt j = none) : step s = .next (s.scanned j) :=
  h.step_eq.trans (resume_scan_unhandled (s := { s with cont := [.irqExit] }) hj hnone)

theorem State.Scanning.step_end (h : s.Scanning start) (hnext : nextSet s.snap start = none) :
    step s = .next { s with cont := [.irqExit], idx := 32 } :=
  h.step_eq.trans (resume_scan_end (s := { s with cont := [.irqExit] }) hnext)

/-- The loop from bit `start` on and the end of IRQ, by induction on the bits left: one write for each of them. -/
theorem run_scan_unhandled (bits : List Nat) (h : s.Scanning start) (hbits : pendingBits s.snap start = bits)
    (hnone : ∀ j ∈ bits, s.par.handlerAt j = none) :
    Host.Core.run Sys2Proof.core (bits.length + 2) s = .next
      { s with
        seq := .idle
        cont := []
        idx := 32
        trace := s.trace ++ bits.map (fun j => Record.wr ⟨.intSts, 0⟩ (1#32 <<< j)) ++ [.irqExit] } := by
  induction bits generalizing s start with
  | nil =>
    have hnext := nextSet_none_of_pendingBits hbits
    have hexit := step_at { s with cont := [.irqExit], idx := 32 } .irqExit [] h.accepted h.noReset
      (by simp [h.noCalls]) rfl
    rw [List.length_nil, run_of_step (h.step_end hnext), run_of_step hexit]
    simp [Host.Core.run, irqExit, State.record]
  | cons j bits ih =>
    obtain ⟨hnext, hrest⟩ := nextSet_of_pendingBits hbits
    obtain ⟨hj, hbelow⟩ := List.forall_mem_cons.mp hnone
    rw [List.length_cons, Nat.add_right_comm, run_of_step (h.step_unhandled hnext hj), ih (h.scanned j) hrest hbelow]
    simp [State.scanned]

end Loop

/-- The state in which a lone pending `irq` of an idle block calls DISPATCH (R284). -/
def State.irqEntered (s : State) : State :=
  { s with calls := [], seq := .handler, cont := [.irqExit], trace := s.trace ++ [.irqEnter] }

/-- IRQ in an idle block: the entry, the one read of the status word, and the loop from bit 0 on (R181, R284). -/
theorem step_irq_idle {s : State} (hwf : s.par.wf = true) (hreset : s.resetIn = none) (hseq : s.seq = .idle)
    (hcont : s.cont = []) (hcalls : s.calls = [.irq]) :
    step s = .next
      { s.answerTaken with
        seq := .handler
        cont := [.scan 0, .irqExit]
        calls := []
        snap := s.answerValue
        trace := s.trace ++ [.irqEnter, .rdWord ⟨.intSts, 0⟩ s.answerValue] } := by
  have hadvance : s.advance = .next (dispatch s.irqEntered) := by
    simp only [State.advance, State.proceed, hcont, hcalls, exec, execIrq, hseq, if_true]
    rfl
  have htaken := s.answerTaken_congr s.irqEntered rfl rfl
  rw [step_of_no_reset s hwf hreset, hadvance, dispatch, State.memRead_eq, htaken,
    s.answerValue_congr s.irqEntered rfl rfl]
  simp [State.irqEntered, State.goTo, State.record, Reg.glob]

/-- Settles O29: the entry, the loop by induction on the set bits, the exit. -/
theorem passAcknowledgesEachBitOnce : Obligations.PassAcknowledgesEachBitOnce := by
  intro s hwf hreset hseq hcont hcalls hnone bits
  rw [run_of_step (step_irq_idle hwf hreset hseq hcont hcalls) (bits.length + 2),
    run_scan_unhandled (start := 0) bits ⟨by simpa using hwf, by simpa using hreset, rfl, rfl⟩ (pendingBits_zero _)]
  · simp [hseq, hcont]
  · intro j hj
    obtain ⟨hmem, hset⟩ := List.mem_filter.mp hj
    simpa using hnone j (List.mem_range.mp hmem) hset

/-! ## The lowest pending endpoint (R108, R250, R255) -/

/-- Settles O44: `ctz16` finds nothing in an empty half, and the lowest set bit in another. -/
theorem lowestPendingEndpointServed : Obligations.LowestPendingEndpointServed := by
  refine fun s m => ⟨?_, fun n hset hlow => ?_⟩
  · rintro rfl
    simp only [exec, execEpaggOut, execEpaggIn, epaggOut, epaggIn, ctz16_zero, and_self]
  · have hfirst := ctz16_eq_some m n hset hlow
    simp only [exec, execEpaggOut, execEpaggIn, epaggOut, epaggIn, hfirst]
    simp [State.goTo, State.record, inReg, outReg]

end Sys2Proof.Machine
end

section
/-! PROOFS. The layer under the FIFO primitives: a state to which several records are added at once, and what it has in
common with the state before. Adding records, moving the sequencer and writing the address use up no answer, so all of
them commute with a read (R12, R60). -/

namespace Sys2Proof.Machine

/-- The state with the records `rs` added at the end of the trace (R12). -/
def State.records (s : State) (rs : List Record) : State := { s with trace := s.trace ++ rs }

section
variable (s : State) (rs qs : List Record)

theorem State.records_records : (s.records rs).records qs = s.records (rs ++ qs) := by simp [State.records]

theorem State.records_answerTaken : (s.records rs).answerTaken = s.answerTaken.records rs := by
  unfold State.answerTaken State.records; split <;> simp_all

theorem State.records_trace : (s.records rs).trace = s.trace ++ rs := rfl

theorem State.records_par : (s.records rs).par = s.par := rfl

/-- A field read is one answer and one record (R67). -/
theorem State.fieldRead_eq_records (r : Reg) (f : Field) :
    s.fieldRead r f = s.answerTaken.records [.rd r f (s.fieldValue f r.n)] := rfl

theorem State.fieldRead_of_value {s : State} {r : Reg} {f : Field} {v : Word} (h : s.fieldValue f r.n = v) :
    s.fieldRead r f = s.answerTaken.records [.rd r f v] := by
  subst h; rfl

/-- A parameter list adds its records (R163, R164). -/
theorem State.performWrites_eq_records (ws : List CfgWrite) :
    s.performWrites ws = s.records (ws.map (cfgRecord s.par s.vbusSense)) := State.performWrites_eq ws s

end

/-- The state with the sequencer at the places `fs` (R44). -/
def State.placed (s : State) (fs : List Frame) : State := { s with cont := fs }

theorem State.placed_answerTaken (s : State) (fs : List Frame) :
    (s.placed fs).answerTaken = s.answerTaken.placed fs := by
  unfold State.answerTaken State.placed; split <;> simp_all

/-! What one and two reads and some records leave, as the statements write it. -/

theorem State.records_taken_once (s : State) (rs : List Record) :
    s.answerTaken.records rs = { s.answerTaken with trace := s.trace ++ rs } := by
  rw [State.records, State.answerTaken_trace]

theorem State.records_taken_twice (s : State) (rs : List Record) :
    s.answerTaken.answerTaken.records rs = { s.answerTaken.answerTaken with trace := s.trace ++ rs } := by
  rw [State.records, State.answerTaken_trace, State.answerTaken_trace]

theorem State.placed_records_taken_once (s : State) (fs : List Frame) (rs : List Record) :
    (s.placed fs).answerTaken.records rs = { s.answerTaken with cont := fs, trace := s.trace ++ rs } := by
  rw [State.records_taken_once, State.placed_answerTaken]
  rfl

theorem State.placed_records_taken_twice (s : State) (fs : List Frame) (rs : List Record) :
    (s.placed fs).answerTaken.answerTaken.records rs =
      { s.answerTaken.answerTaken with cont := fs, trace := s.trace ++ rs } := by
  rw [State.records_taken_twice, State.placed_answerTaken, State.placed_answerTaken]
  rfl

/-- The state with the device address `a` (R20). -/
def State.withAddr (s : State) (a : BitVec 7) : State := { s with addr := a }

theorem State.withAddr_answerTaken (s : State) (a : BitVec 7) :
    (s.withAddr a).answerTaken = s.answerTaken.withAddr a := by
  unfold State.answerTaken State.withAddr; split <;> simp_all

end Sys2Proof.Machine
end

section
/-! PROOFS. The busy-wait and the two flushes (R140 to R142). A flush is the same pair of busy-waits with a request between
them, TX or RX: `flushPair`. What it does is shown once for that pair and used for FLUSH_TX, FLUSH_RX, the flushes of
EV_USB_RESET and the busy-wait that is resumed. -/

namespace Sys2Proof.Machine

/-! ## One repetition of a busy-wait -/

section Spin
variable {p : SpinPoint} {n : Nat} {next : State → State} {rest : List Frame} {s : State}

/-- The wanted value ends the busy-wait. -/
theorem spinOnce_answered (h : s.fieldValue p.field = p.want) :
    spinOnce p n next rest s = next (s.answerTaken.records [.rd rstCtl p.field p.want]) := by
  unfold spinOnce
  rw [if_pos h, State.fieldRead_eq_records, ← h]
  rfl

/-- Any other value, before the limit, keeps the sequencer in it. -/
theorem spinOnce_repeats (h : s.fieldValue p.field ≠ p.want) (hl : spinLimitReached s.par n = false) :
    spinOnce p n next rest s =
      (s.answerTaken.records [.rd rstCtl p.field (s.fieldValue p.field)]).goTo (.spin p (n + 1) :: rest) := by
  unfold spinOnce
  rw [if_neg h, hl]
  rfl

/-- Any other value, at the limit, halts the block. -/
theorem spinOnce_fails (h : s.fieldValue p.field ≠ p.want) (hl : spinLimitReached s.par n = true) :
    spinOnce p n next rest s =
      (s.answerTaken.records [.rd rstCtl p.field (s.fieldValue p.field)]).raiseFatal .spinTimeout := by
  unfold spinOnce
  rw [if_neg h, hl]
  rfl

/-- But for a limit of 0, the first read is the last one exactly under a limit of 1 (R140). -/
theorem spinLimitReached_first (q : Params) (h : q.spinLimit ≠ some 0) :
    spinLimitReached q 0 = decide (q.spinLimit = some 1) := by
  unfold spinLimitReached
  cases hl : q.spinLimit with
  | none => rfl
  | some limit =>
    have hpos : limit ≠ 0 := fun h0 => h (hl.trans (congrArg some h0))
    simp only [Option.some.injEq, decide_eq_decide]
    omega

theorem State.waits_halts (h : s.par.spinLimit = some 1) : s.waits p rest = s.raiseFatal .spinTimeout := if_pos h

theorem State.waits_stays (h : s.par.spinLimit ≠ some 1) : s.waits p rest = s.goTo (.spin p 1 :: rest) := if_neg h

/-- A first read that gives another value than the wanted one: the block waits or halts (R140). -/
theorem spinOnce_waits {v : Word} (hv : s.fieldValue p.field = v) (hne : v ≠ p.want) (hl : s.par.spinLimit ≠ some 0) :
    spinOnce p 0 next rest s = (s.answerTaken.records [.rd rstCtl p.field v]).waits p rest := by
  subst hv
  have hlimit := spinLimitReached_first s.par hl
  have hpar : (s.answerTaken.records [.rd rstCtl p.field (s.fieldValue p.field)]).par = s.par := s.answerTaken_par
  by_cases hone : s.par.spinLimit = some 1
  · rw [State.waits_halts (by rwa [hpar]), spinOnce_fails hne (by simpa [hone] using hlimit)]
  · rw [State.waits_stays (by rwa [hpar]), spinOnce_repeats hne (by simpa [hone] using hlimit)]

end Spin

/-! ## The two busy-waits of a flush -/

/-- A flush from its first busy-wait on, after `n` reads of that one: the busy-wait `p`, the request, the busy-wait `q`. -/
def flushPair (p q : SpinPoint) (n : Nat) (request : Params → Record) (next : State → State) (rest : List Frame)
    (s : State) : State :=
  spinOnce p n (fun t => spinOnce q 0 next rest (t.records [request t.par])) rest s

/-- The request of FLUSH_TX (R141). -/
def flushTxWrite (p : Params) : Record :=
  .wrFields ⟨.rstCtl, 0⟩ [(.txfNum, truncTo 5 p.flushTxfnum), (.txfFlush, 1)]

/-- The request of FLUSH_RX (R142). -/
def flushRxWrite (_ : Params) : Record := .wrFields ⟨.rstCtl, 0⟩ [(.rxfFlush, 1)]

theorem flushTx_eq_pair : flushTx = flushPair .txIdle .txDone 0 flushTxWrite := rfl

theorem flushRx_eq_pair : flushRx = flushPair .rxIdle .rxDone 0 flushRxWrite := rfl

section Pair
variable {p q : SpinPoint} {n : Nat} {request : Params → Record} {next : State → State} {rest : List Frame} {s : State}

/-- Both busy-waits answered: three records, and the caller goes on. -/
theorem flushPair_answered (hp : s.fieldValue p.field = p.want) (hq : s.answerTaken.fieldValue q.field = q.want) :
    flushPair p q n request next rest s =
      next (s.answerTaken.answerTaken.records
        [.rd rstCtl p.field p.want, request s.par, .rd rstCtl q.field q.want]) := by
  unfold flushPair
  rw [spinOnce_answered hp, spinOnce_answered (by exact hq)]
  simp only [State.records_records, State.records_answerTaken, State.records_par, State.answerTaken_par, List.cons_append,
    List.nil_append]

/-- The first read of the first busy-wait not answered. -/
theorem flushPair_waits_first {v : Word} (hv : s.fieldValue p.field = v) (hne : v ≠ p.want)
    (hl : s.par.spinLimit ≠ some 0) :
    flushPair p q 0 request next rest s = (s.answerTaken.records [.rd rstCtl p.field v]).waits p rest :=
  spinOnce_waits hv hne hl

/-- The first busy-wait answered, the first read of the second one not. -/
theorem flushPair_waits_second {v : Word} (hp : s.fieldValue p.field = p.want)
    (hv : s.answerTaken.fieldValue q.field = v) (hne : v ≠ q.want) (hl : s.par.spinLimit ≠ some 0) :
    flushPair p q n request next rest s =
      (s.answerTaken.answerTaken.records
        [.rd rstCtl p.field p.want, request s.par, .rd rstCtl q.field v]).waits q rest := by
  unfold flushPair
  rw [spinOnce_answered hp, spinOnce_waits (by exact hv) hne
    (by simpa only [State.records_par, State.answerTaken_par] using hl)]
  simp only [State.records_records, State.records_answerTaken, State.records_par, State.answerTaken_par, List.cons_append,
    List.nil_append]

/-! The same after records that the caller made before the flush. -/

variable {rs : List Record}

theorem flushPair_records_answered (hp : s.fieldValue p.field = p.want)
    (hq : s.answerTaken.fieldValue q.field = q.want) :
    flushPair p q n request next rest (s.records rs) =
      next (s.answerTaken.answerTaken.records
        (rs ++ [.rd rstCtl p.field p.want, request s.par, .rd rstCtl q.field q.want])) := by
  rw [flushPair_answered (s := s.records rs) hp (by rw [State.records_answerTaken]; exact hq)]
  simp only [State.records_answerTaken, State.records_records, State.records_par]

theorem flushPair_records_waits_first {v : Word} (hv : s.fieldValue p.field = v) (hne : v ≠ p.want)
    (hl : s.par.spinLimit ≠ some 0) :
    flushPair p q 0 request next rest (s.records rs) =
      (s.answerTaken.records (rs ++ [.rd rstCtl p.field v])).waits p rest := by
  rw [flushPair_waits_first (s := s.records rs) hv hne hl, State.records_answerTaken, State.records_records]

theorem flushPair_records_waits_second {v : Word} (hp : s.fieldValue p.field = p.want)
    (hv : s.answerTaken.fieldValue q.field = v) (hne : v ≠ q.want) (hl : s.par.spinLimit ≠ some 0) :
    flushPair p q n request next rest (s.records rs) =
      (s.answerTaken.answerTaken.records
        (rs ++ [.rd rstCtl p.field p.want, request s.par, .rd rstCtl q.field v])).waits q rest := by
  rw [flushPair_waits_second (s := s.records rs) hp (by rw [State.records_answerTaken]; exact hv) hne hl]
  simp only [State.records_answerTaken, State.records_records, State.records_par]

end Pair

/-- Settles O54: each flush is its pair of busy-waits. -/
theorem flushAnswered : Obligations.FlushAnswered := by
  intro s
  simp only [exec, execFlushTx, execFlushRx, flushTx_eq_pair, flushRx_eq_pair, ← State.records_taken_once,
    ← State.records_taken_twice]
  refine ⟨fun hidle hdone => ?_, fun hidle hdone => ?_, fun hl => ⟨fun hbusy => ⟨?_, ?_⟩, fun hidle hbusy => ?_,
    fun hidle hbusy => ?_⟩⟩
  · exact congrArg _ (flushPair_answered hidle hdone)
  · exact congrArg _ (flushPair_answered hidle hdone)
  · exact congrArg _ (flushPair_waits_first hbusy (by decide) hl)
  · exact congrArg _ (flushPair_waits_first hbusy (by decide) hl)
  · exact congrArg _ (flushPair_waits_second hidle hbusy (by decide) hl)
  · exact congrArg _ (flushPair_waits_second hidle hbusy (by decide) hl)

/-! ## A busy-wait in which the sequencer stands -/

theorem resumeSpin_txIdle (n : Nat) : resumeSpin .txIdle n = flushPair .txIdle .txDone n flushTxWrite id [] := rfl

theorem resumeSpin_rxIdle (n : Nat) : resumeSpin .rxIdle n = flushPair .rxIdle .rxDone n flushRxWrite id [] := rfl

/-- Resuming a busy-wait is one more repetition of it, whatever follows it. -/
theorem resumeSpin_eq_spinOnce (p : SpinPoint) (n : Nat) : ∃ next, resumeSpin p n = spinOnce p n next [] := by
  cases p with
  | txIdle => exact ⟨_, rfl⟩
  | txDone => exact ⟨_, rfl⟩
  | rxIdle => exact ⟨_, rfl⟩
  | rxDone => exact ⟨_, rfl⟩

section Resume
variable {s : State} {p : SpinPoint} {n : Nat} {rest : List Frame}
variable (hwf : s.par.wf = true) (hreset : s.resetIn = none) (hcalls : ∀ c ∈ s.calls, c = .irq)
include hwf hreset hcalls

/-- A step in a busy-wait resumes it. -/
theorem step_spin (hcont : s.cont = .spin p n :: rest) : step s = .next (resumeSpin p n (s.placed rest)) :=
  step_at s _ _ hwf hreset hcalls hcont

/-- A step in a busy-wait whose read does not give the wanted value, before the limit: one read, and the busy-wait again. -/
theorem step_spin_repeats (hcont : s.cont = .spin p n :: rest) (h : s.fieldValue p.field ≠ p.want)
    (hl : spinLimitReached s.par n = false) :
    step s = .next
      { s.answerTaken with
        cont := .spin p (n + 1) :: rest
        trace := s.trace ++ [.rd ⟨.rstCtl, 0⟩ p.field (s.fieldValue p.field)] } := by
  obtain ⟨next, hspin⟩ := resumeSpin_eq_spinOnce p n
  rw [step_spin hwf hreset hcalls hcont, hspin, spinOnce_repeats (s := s.placed rest) h hl,
    State.placed_records_taken_once]
  rfl

/-- The same at the limit: the block halts. -/
theorem step_spin_fails (hcont : s.cont = .spin p n :: rest) (h : s.fieldValue p.field ≠ p.want)
    (hl : spinLimitReached s.par n = true) :
    step s = .next
      { s.answerTaken with
        halted := true
        fatalCause := some .spinTimeout
        seq := .halted
        cont := []
        trace := s.trace ++ [.rd ⟨.rstCtl, 0⟩ p.field (s.fieldValue p.field), .fatal .spinTimeout] } := by
  obtain ⟨next, hspin⟩ := resumeSpin_eq_spinOnce p n
  rw [step_spin hwf hreset hcalls hcont, hspin, spinOnce_fails (s := s.placed rest) h hl,
    State.placed_records_taken_once]
  simp only [State.raiseFatal_eq, List.append_assoc]
  rfl

/-! A busy-wait that is answered, by what follows it: the other busy-wait of its flush, or the caller's place. -/

variable {q : SpinPoint} {request : Params → Record}

/-- The first busy-wait of a flush is answered and so is the second one: the flush ends. -/
theorem step_flush_answered (hflush : resumeSpin p n = flushPair p q n request id []) (hcont : s.cont = .spin p n :: rest)
    (hp : s.fieldValue p.field = p.want) (hq : s.answerTaken.fieldValue q.field = q.want) :
    step s = .next
      { s.answerTaken.answerTaken with
        cont := rest
        trace := s.trace ++ [.rd rstCtl p.field p.want, request s.par, .rd rstCtl q.field q.want] } := by
  rw [step_spin hwf hreset hcalls hcont, hflush,
    flushPair_answered (s := s.placed rest) hp (by rw [State.placed_answerTaken]; exact hq),
    State.placed_records_taken_twice]
  rfl

/-- The first busy-wait of a flush is answered, the first read of the second one is not: the flush waits there. -/
theorem step_flush_waits {v : Word} (hflush : resumeSpin p n = flushPair p q n request id [])
    (hcont : s.cont = .spin p n :: rest) (hp : s.fieldValue p.field = p.want)
    (hv : s.answerTaken.fieldValue q.field = v) (hne : v ≠ q.want) (hl : s.par.spinLimit ≠ some 0) :
    step s = .next
      (State.waits { s.answerTaken.answerTaken with
          cont := rest
          trace := s.trace ++ [.rd rstCtl p.field p.want, request s.par, .rd rstCtl q.field v] } q []) := by
  rw [step_spin hwf hreset hcalls hcont, hflush,
    flushPair_waits_second (s := s.placed rest) hp (by rw [State.placed_answerTaken]; exact hv) hne hl,
    State.placed_records_taken_twice]
  rfl

/-- The second busy-wait of a flush is answered: the flush ends. -/
theorem step_spin_ends (hlast : resumeSpin p n = spinOnce p n id []) (hcont : s.cont = .spin p n :: rest)
    (hp : s.fieldValue p.field = p.want) :
    step s = .next { s.answerTaken with cont := rest, trace := s.trace ++ [.rd rstCtl p.field p.want] } := by
  rw [step_spin hwf hreset hcalls hcont, hlast, spinOnce_answered (s := s.placed rest) hp,
    State.placed_records_taken_once]
  rfl

end Resume

/-- Settles O56: without a limit no read is the last one. -/
theorem spinRepeatsForEver : Obligations.SpinRepeatsForEver := by
  intro s p n rest hwf hreset hcalls hlimit hcont h
  exact step_spin_repeats hwf hreset hcalls hcont h (by simp [spinLimitReached, hlimit])

/-- Settles O57: the read after `n` unsuccessful ones is before the `N`-th, or it is that one. -/
theorem spinLimitFailsClosed : Obligations.SpinLimitFailsClosed := by
  intro s p n N rest hwf hreset hcalls hlimit hcont h
  refine ⟨fun hbelow => ?_, fun hlast => ?_⟩
  · exact step_spin_repeats hwf hreset hcalls hcont h (by simpa [spinLimitReached, hlimit] using hbelow)
  · exact step_spin_fails hwf hreset hcalls hcont h (by simp [spinLimitReached, hlimit, hlast])

/-- Settles O55: an idle bus goes on with the pair of busy-waits from its first one, a completed flush ends it. -/
theorem spinAnswered : Obligations.SpinAnswered := by
  intro s n rest hwf hreset hcalls
  refine ⟨fun hcont hidle => ⟨fun hdone => ?_, fun hbusy hl => ?_⟩,
    fun hcont hidle => ⟨fun hdone => ?_, fun hbusy hl => ?_⟩, fun hcont hdone => ?_, fun hcont hdone => ?_⟩
  · exact step_flush_answered hwf hreset hcalls (resumeSpin_txIdle n) hcont hidle hdone
  · exact step_flush_waits hwf hreset hcalls (resumeSpin_txIdle n) hcont hidle hbusy (by decide) hl
  · exact step_flush_answered hwf hreset hcalls (resumeSpin_rxIdle n) hcont hidle hdone
  · exact step_flush_waits hwf hreset hcalls (resumeSpin_rxIdle n) hcont hidle hbusy (by decide) hl
  · exact step_spin_ends hwf hreset hcalls rfl hcont hdone
  · exact step_spin_ends hwf hreset hcalls rfl hcont hdone

end Sys2Proof.Machine
end

section
/-! PROOFS. OUT endpoints armed (R144, R165), and EV_USB_RESET in Powered (R163): the mask writes, then the pair of busy-waits
of FLUSH_TX, that of FLUSH_RX, and the rest of the handler. -/

namespace Sys2Proof.Machine

/-- OUT endpoint 0 armed for a setup packet (R165). -/
theorem armSetupOut0_eq (s : State) :
    armSetupOut0 s = s.records
      [.wrFields ⟨.outTsiz, 0⟩ [(.outStupcnt, 1), (.outPktcnt, 1), (.outXfrsiz, 8)],
       .wrFields ⟨.outCtl, 0⟩ [(.outCnak, 1), (.outEpena, 1)]] :=
  s.records_records [_] [_]

/-- Settles O60: REARM_OUT is one write on every endpoint, ARM_SETUP_OUT0 one write before that of endpoint 0. -/
theorem outEndpointArmed : Obligations.OutEndpointArmed :=
  fun s => ⟨fun n => congrArg Host.Outcome.next (rearmOut_eq n s), congrArg Host.Outcome.next (armSetupOut0_eq s)⟩

/-- EV_USB_RESET after both flushes (R163). -/
theorem usbResetTail_eq (s : State) :
    usbResetTail s =
      { s.records
          [.wrFields ⟨.devCfg, 0⟩ [(.devAddr, 0)],
           .wrFields ⟨.outTsiz, 0⟩ [(.outStupcnt, 1), (.outPktcnt, 1), (.outXfrsiz, 8)],
           .wrFields ⟨.outCtl, 0⟩ [(.outCnak, 1), (.outEpena, 1)]] with
        addr := 0
        devState := .resettingBus } := by
  unfold usbResetTail
  rw [armSetupOut0_eq]
  simp only [State.records, State.fieldsWrite_eq, State.record, List.append_assoc]
  rfl

section
variable {s : State}

/-- The records of the mask writes (R164). -/
def State.resetMaskRecords (s : State) : List Record := s.par.resetMaskWrites.map (cfgRecord s.par s.vbusSense)

/-- EV_USB_RESET in Powered is the mask writes, and then both flushes with the rest of the handler below them. -/
theorem evUsbReset_powered (h : s.devState = .powered) :
    evUsbReset s =
      flushPair .txIdle .txDone 0 flushTxWrite
        (flushPair .rxIdle .rxDone 0 flushRxWrite usbResetTail [.usbResetTail]) [.flushRx, .usbResetTail]
        (s.records s.resetMaskRecords) := by
  unfold evUsbReset
  rw [if_neg (not_not_intro h), State.performWrites_eq_records, flushTx_eq_pair, flushRx_eq_pair]
  rfl

/-- The records of a FLUSH_TX whose busy-waits are both answered at the first read (R141). -/
def flushTxRecords (p : Params) : List Record :=
  [.rd rstCtl .ahbIdle 1, flushTxWrite p, .rd rstCtl .txfFlush 0]

/-- With the TX flush answered, the RX flush follows. -/
theorem evUsbReset_txFlushed (h : s.devState = .powered) (hidle : s.fieldValue .ahbIdle = 1)
    (hdone : s.answerTaken.fieldValue .txfFlush = 0) :
    evUsbReset s =
      flushPair .rxIdle .rxDone 0 flushRxWrite usbResetTail [.usbResetTail]
        (s.answerTaken.answerTaken.records (s.resetMaskRecords ++ flushTxRecords s.par)) := by
  rw [evUsbReset_powered h]
  exact flushPair_records_answered hidle hdone

/-- Settles O36: both flushes answered, and the rest of the handler. -/
theorem usbResetAnswered : Obligations.UsbResetAnswered := by
  intro s h hidle hdone hidle' hdone'
  refine congrArg Host.Outcome.next ?_
  rw [evUsbReset_txFlushed h hidle hdone, flushPair_records_answered hidle' hdone', usbResetTail_eq,
    State.records_records, State.records_taken_twice]
  simp only [State.answerTaken_trace, List.append_assoc]
  rfl

/-- Settles O37: the flush that is not answered waits where it stands, with the rest of the handler below it. -/
theorem usbResetHangsInPowered : Obligations.UsbResetHangsInPowered := by
  intro s h hl s1 s2 s3 masks tx rx
  have hl' : s.answerTaken.answerTaken.par.spinLimit ≠ some 0 := by simpa only [State.answerTaken_par] using hl
  refine ⟨fun hbusy => congrArg Host.Outcome.next ?_, fun hidle hbusy => congrArg Host.Outcome.next ?_,
    fun hidle hdone hbusy => congrArg Host.Outcome.next ?_,
    fun hidle hdone hidle' hbusy => congrArg Host.Outcome.next ?_⟩
  · rw [evUsbReset_powered h, flushPair_records_waits_first hbusy (by decide) hl, State.records_taken_once]
    simp only [masks, List.append_assoc]
    rfl
  · rw [evUsbReset_powered h, flushPair_records_waits_second hidle hbusy (by decide) hl, State.records_taken_twice]
    simp only [masks, List.append_assoc]
    rfl
  · rw [evUsbReset_txFlushed h hidle hdone, flushPair_records_waits_first hbusy (by decide) hl',
      State.records_taken_once]
    simp only [State.answerTaken_trace, masks, List.append_assoc]
    rfl
  · rw [evUsbReset_txFlushed h hidle hdone, flushPair_records_waits_second hidle' hbusy (by decide) hl',
      State.records_taken_twice]
    simp only [State.answerTaken_trace, masks, List.append_assoc]
    rfl

end

end Sys2Proof.Machine
end

section
/-! PROOFS. WRITE_TX in its three ways, as the statements write them (R143, R145, R306), and its callers: ZLP, the status
packet of REQ_SET_ADDRESS (R224), GET_DESCRIPTOR whose transmission aborts (R225). -/

namespace Sys2Proof.Machine

/-! ## The three ways -/

section
variable {data : List Byte} {n : Nat} {s : State}

/-- Endpoint 0 inactive: one read and the report (R306). -/
theorem writeTx_abortsInactive (h : s.fieldValue .inActive = 0) :
    writeTx data n s =
      { s.answerTaken with
        txStatus := .abortInactive
        trace := s.trace ++ [.rd ⟨.inCtl, 0⟩ .inActive 0, .txabort .inactive] } := by
  rw [writeTx_inactive data n s h, State.fieldRead_of_value (by exact h), State.records_taken_once,
    State.reportTxAbort_eq]
  simp only [List.append_assoc]
  rfl

/-- What the two reads of an active endpoint 0 leave (R143). -/
theorem writeTx_reads (h : s.fieldValue .inActive = 1) :
    (s.fieldRead ⟨.inCtl, 0⟩ .inActive).fieldRead ⟨.inFifoSts, 0⟩ .spaceAvail =
      { s.answerTaken.answerTaken with
        trace := s.trace ++
          [.rd ⟨.inCtl, 0⟩ .inActive 1, .rd ⟨.inFifoSts, 0⟩ .spaceAvail (s.answerTaken.fieldValue .spaceAvail)] } := by
  have hfirst : s.fieldRead ⟨.inCtl, 0⟩ .inActive = s.answerTaken.records [.rd ⟨.inCtl, 0⟩ .inActive 1] :=
    State.fieldRead_of_value h
  rw [hfirst, State.fieldRead_eq_records, State.records_answerTaken, State.records_records, State.records_taken_twice]
  rfl

/-- Too little space: two reads and the report (R306). -/
theorem writeTx_abortsNoSpace (h : s.fieldValue .inActive = 1)
    (hs : (s.answerTaken.fieldValue .spaceAvail).toNat < ceil4 n) :
    writeTx data n s =
      { s.answerTaken.answerTaken with
        txStatus := .abortNoSpace
        trace := s.trace ++
          [.rd ⟨.inCtl, 0⟩ .inActive 1,
           .rd ⟨.inFifoSts, 0⟩ .spaceAvail (s.answerTaken.fieldValue .spaceAvail),
           .txabort .noSpace] } := by
  rw [writeTx_noSpace data n s (by rw [h]; decide) hs, writeTx_reads h, State.reportTxAbort_eq]
  simp only [List.append_assoc]
  rfl

/-- Both checks passed: two reads and the packet (R143). -/
theorem writeTx_sendsPacket (hn : n ≤ txbufCap) (h : s.fieldValue .inActive = 1)
    (hs : ceil4 n ≤ (s.answerTaken.fieldValue .spaceAvail).toNat) :
    writeTx data n s =
      { s.answerTaken.answerTaken with
        txStatus := .ok
        txk := BitVec.ofNat 5 (ceil4 n)
        trace := s.trace ++
          [.rd ⟨.inCtl, 0⟩ .inActive 1, .rd ⟨.inFifoSts, 0⟩ .spaceAvail (s.answerTaken.fieldValue .spaceAvail)] ++
          sendRecords data n } := by
  rw [writeTx_sends data n hn s (by rw [h]; decide) hs, writeTx_reads h]

/-! ## WRITE_TX and ZLP as operations -/

/-- A call with operands in range runs WRITE_TX (R143). -/
theorem exec_writeTx {len : BitVec 16} (hcap : len.toNat ≤ 64) (hdata : len.toNat ≤ data.length) :
    exec (.writeTx data len) s = .next (writeTx data len.toNat s) := if_pos ⟨hcap, hdata⟩

/-- No lack of space aborts a packet of length 0 (R145). -/
theorem zlp_sends (h : s.fieldValue .inActive = 1) :
    zlp s =
      { s.answerTaken.answerTaken with
        txStatus := .ok
        txk := 0
        trace := s.trace ++
          [.rd ⟨.inCtl, 0⟩ .inActive 1,
           .rd ⟨.inFifoSts, 0⟩ .spaceAvail (s.answerTaken.fieldValue .spaceAvail),
           .wrFields ⟨.inTsiz, 0⟩ [(.inPktcnt, 1), (.inXfrsiz, 0)],
           .wrFields ⟨.inCtl, 0⟩ [(.inStall, 0)],
           .wrFields ⟨.inCtl, 0⟩ [(.inCnak, 1), (.inEpena, 1)],
           .wrFields ⟨.outCtl, 0⟩ [(.outCnak, 1), (.outEpena, 1)]] } := by
  rw [zlp, writeTx_sendsPacket (Nat.zero_le _) h (Nat.zero_le _), List.append_assoc]
  rfl

end

/-- Settles O58: the operands are in range, and the length written is the whole 16-bit length. -/
theorem writeTxSends : Obligations.WriteTxSends := by
  refine fun s h => ⟨fun data len hcap hdata hspace => ?_, congrArg Host.Outcome.next (zlp_sends h)⟩
  rw [exec_writeTx hcap hdata, writeTx_sendsPacket hcap h hspace, sendRecords, BitVec.ofNat_toNat]
  simp only [List.append_assoc]
  rfl

/-- Settles O59: the check that fails decides, and operands out of range are refused before any access. -/
theorem writeTxAborts : Obligations.WriteTxAborts := by
  refine fun s data len => ⟨fun hcap hdata h => ?_, fun h => ?_, fun hcap hdata h hspace => ?_, fun hrange => ?_⟩
  · rw [exec_writeTx hcap hdata, writeTx_abortsInactive h]
  · exact congrArg Host.Outcome.next (writeTx_abortsInactive h)
  · rw [exec_writeTx hcap hdata, writeTx_abortsNoSpace h hspace]
  · have hnot : ¬ (len.toNat ≤ txbufCap ∧ len.toNat ≤ data.length) := by
      rintro ⟨hcap, hdata⟩
      have hcap' : len.toNat ≤ 64 := hcap
      omega
    exact if_neg hnot

/-! ## The callers -/

/-- REQ_SET_ADDRESS in its two states is the address register and `ctx.addr`, then the zero-length packet (R224). -/
theorem reqSetAddress_eq {s : State} (a : BitVec 7) (h : s.devState = .defaultAddress ∨ s.devState = .addressed) :
    reqSetAddress a s = zlp ((s.withAddr a).records [.wrFields ⟨.devCfg, 0⟩ [(.devAddr, a.setWidth 32)]]) := by
  have hbelow : (a.setWidth 32).toNat < 2 ^ 7 := by
    rw [BitVec.toNat_setWidth_of_le (by decide)]
    exact a.isLt
  have hfields : truncFields s.par [(.devAddr, a.setWidth 32)] = [(.devAddr, a.setWidth 32)] := by
    simp only [truncFields, List.map_cons, List.map_nil, Params.width_devAddr, truncTo_of_lt 7 _ hbelow]
  have hstate : ¬ (s.devState ≠ .defaultAddress ∧ s.devState ≠ .addressed) := by tauto
  rw [reqSetAddress, if_neg hstate, State.fieldsWrite_eq, Reg.glob_n, hfields]
  rfl

/-- Settles O49: the zero-length packet of an active endpoint 0 is sent. -/
theorem setAddressAnswered : Obligations.SetAddressAnswered := by
  intro s a hstate hactive
  refine congrArg Host.Outcome.next ?_
  rw [reqSetAddress_eq a hstate, zlp_sends (by exact hactive)]
  simp only [State.records_answerTaken, State.withAddr_answerTaken, State.records_trace, List.append_assoc]
  rfl

/-- Settles O52: both rows are GET_DESCRIPTOR of their tag, which is WRITE_TX of the staged buffer. -/
theorem getDescriptorAborts : Obligations.GetDescriptorAborts := by
  intro s i len bytes x hx hd hpos
  have hexec : exec x.2 s = .next (getDescriptor x.1 i len s) := by
    simp only [List.mem_cons, List.not_mem_nil, or_false] at hx
    rcases hx with rfl | rfl <;> rfl
  rw [hexec, getDescriptor_found s x.1 i len bytes hd hpos]
  refine ⟨fun hactive => ?_, fun hactive hspace => ?_⟩
  · rw [writeTx_abortsInactive (by exact hactive)]
    simp only [staged_answerTaken]
    simp [State.staged, stageBytes]
  · rw [writeTx_abortsNoSpace (by exact hactive) (by rw [staged_answerTaken]; exact hspace)]
    simp only [staged_answerTaken, staged_fieldValue]
    simp [State.staged, stageBytes]

end Sys2Proof.Machine
end

section
/-! PROOFS. The Device State Machine (R160 to R169): what each trigger does in its source state and outside it, what follows
a call that has returned, and that no step but a reset moves the enumeration state otherwise than one place forward. -/

namespace Sys2Proof.Machine

/-! ## The triggers in and outside their source states (R160, R161, R163, R166, R168) -/

section
variable {s : State}

theorem evUsbReset_ignored (h : s.devState ≠ .powered) : evUsbReset s = s := if_pos h

theorem evEnumDone_ignored (h : s.devState ≠ .resettingBus) : evEnumDone s = s := if_pos h

/-- Settles O35: outside its source state the handler is the empty one. -/
theorem outOfStateTriggersIgnored : Obligations.OutOfStateTriggersIgnored :=
  fun _ => ⟨fun h => congrArg Host.Outcome.next (evUsbReset_ignored h),
    fun h => congrArg Host.Outcome.next (evEnumDone_ignored h)⟩

/-- The soft connect (R161). -/
theorem evSession_connects (hvalid : s.fieldValue .bSessionValid = 1) (hdev : s.devState = .uninitialized) :
    evSession s =
      { s.answerTaken with
        devState := .powered
        trace := s.trace ++
          [.rd ⟨.otgCtl, 0⟩ .bSessionValid 1, .wrFields ⟨.devCtl, 0⟩ [(.softDisconnect, 0)]] } := by
  have hset : s.fieldValue .bSessionValid ≠ 0 := by rw [hvalid]; decide
  have hread : s.fieldRead (.glob .otgCtl) .bSessionValid = s.answerTaken.records [.rd ⟨.otgCtl, 0⟩ .bSessionValid 1] :=
    State.fieldRead_of_value hvalid
  have hkept : (s.fieldRead (.glob .otgCtl) .bSessionValid).devState = .uninitialized := by simpa using hdev
  simp only [evSession]
  rw [if_neg hset, if_neg (not_not_intro hkept), hread, State.records_taken_once]
  simp only [State.fieldsWrite_eq, State.record, List.append_assoc]
  rfl

/-- The read alone: the flag clear, or another state (R161, R168). -/
theorem evSession_ignored (h : s.fieldValue .bSessionValid = 0 ∨ s.devState ≠ .uninitialized) :
    evSession s = s.fieldRead (.glob .otgCtl) .bSessionValid := by
  simp only [evSession]
  split_ifs with hclear hdev
  · rfl
  · rfl
  · rcases h with h | h
    · exact absurd h hclear
    · exact absurd (by simpa using h) hdev

/-- Settles O34: the soft connect, or the read alone. -/
theorem sessionValid : Obligations.SessionValid := by
  refine fun s => ⟨fun hvalid hdev => congrArg Host.Outcome.next (evSession_connects hvalid hdev), fun h => ?_⟩
  refine congrArg Host.Outcome.next ?_
  rw [evSession_ignored h, State.fieldRead_eq_records, State.records_taken_once]
  rfl

/-- EV_ENUM_DONE in ResettingBus (R166): the read that is latched, three writes, those of the parameter list, and the state. -/
theorem evEnumDone_runs (h : s.devState = .resettingBus) :
    evEnumDone s =
      { s.answerTaken with
        speed := (s.fieldValue .enumSpeed).setWidth 2
        devState := .defaultAddress
        trace := s.trace ++
          [.rd ⟨.devSts, 0⟩ .enumSpeed (s.fieldValue .enumSpeed),
           .wrFields ⟨.inCtl, 0⟩ [(.inMpsiz, 0)],
           .wrFields ⟨.devCtl, 0⟩ [(.clearGlobalInNak, 1)],
           .wrFields ⟨.usbCfg, 0⟩ [(.turnaround, truncTo 4 s.par.trdt)]] ++
          s.par.enumUnmaskWrites.map (cfgRecord s.par s.vbusSense) } := by
  unfold evEnumDone
  rw [if_neg (not_not_intro h)]
  simp only [State.performWrites_eq, State.fieldRead_eq, State.fieldsWrite_eq, State.record, State.answerTaken_trace,
    State.answerTaken_par, State.answerTaken_vbusSense, List.append_assoc]
  rfl

/-- Settles O38: in its source state the handler latches the speed, makes its writes and sets the state last. -/
theorem enumDoneRuns : Obligations.EnumDoneRuns :=
  fun _ h => congrArg Host.Outcome.next (evEnumDone_runs h)

end

/-! ## What follows a call that has returned (R163, R181, R252, R284) -/

/-- Settles O13: each place says what follows; the rest of EV_USB_RESET is its three writes and the state. -/
theorem stepReturnsFromCalls : Obligations.StepReturnsFromCalls := by
  intro s rest hwf hreset hcalls
  have hstep : ∀ f, s.cont = f :: rest → step s = resume f { s with cont := rest } := fun f =>
    step_at s f rest hwf hreset hcalls
  refine ⟨fun j => hstep (.ackGint j), hstep .ackStup, hstep .irqExit, hstep .flushRx, fun hcont => ?_⟩
  exact (hstep .usbResetTail hcont).trans (congrArg Host.Outcome.next (usbResetTail_eq _))

/-! ## The enumeration state only advances (R22, R169) -/

theorem DeviceState.advances_refl (d : DeviceState) : d.advances d = true := by
  cases d <;> rfl

section
variable {s t : State}

theorem SameContext.advances (h : SameContext s t) : s.devState.advances t.devState = true := by
  rw [h.devState]; exact s.devState.advances_refl

/-- EV_SESSION: from Uninitialized to Powered, or the state is kept. -/
theorem evSession_advances (s : State) : s.devState.advances (evSession s).devState = true := by
  simp only [evSession]
  split_ifs with hclear hdev
  · exact (OnlyTx.fieldRead s _ _).sameContext.advances
  · exact (OnlyTx.fieldRead s _ _).sameContext.advances
  · have hdev : s.devState = .uninitialized := by simpa using hdev
    rw [hdev]; rfl

/-- EV_USB_RESET in Powered keeps the context, however its flushes end, or runs to its last part (R163). -/
theorem evUsbReset_rule {P : State → Prop} (hdev : s.devState = .powered) (hkept : ∀ t, SameContext s t → P t)
    (htail : ∀ u, P (usbResetTail u)) : P (evUsbReset s) := by
  have hwrites := s.performWrites_onlyTx s.par.resetMaskWrites
  have hfatal : ∀ u, OnlyTx s u → P (u.raiseFatal .spinTimeout) := fun u hu =>
    hkept _ (hu.sameContext.trans (u.raiseFatal_sameContext _))
  have hwait : ∀ u fs, OnlyTx s u → P (u.goTo fs) := fun u fs hu =>
    hkept _ (hu.sameContext.trans (u.goTo_sameContext fs))
  unfold evUsbReset
  rw [if_neg (not_not_intro hdev)]
  refine flushTx_rule (fun u hu => ?_) (fun u hu => hfatal u (hwrites.trans hu))
    (fun u _ hu => hwait u _ (hwrites.trans hu)) (fun u _ hu => hwait u _ (hwrites.trans hu))
  have hsu := hwrites.trans hu
  exact flushRx_rule (fun v _ => htail v) (fun v hv => hfatal v (hsu.trans hv))
    (fun v _ hv => hwait v _ (hsu.trans hv)) (fun v _ hv => hwait v _ (hsu.trans hv))

/-- EV_USB_RESET: from Powered to ResettingBus, or the state is kept. -/
theorem evUsbReset_advances (s : State) : s.devState.advances (evUsbReset s).devState = true := by
  by_cases hdev : s.devState = .powered
  · exact evUsbReset_rule (P := fun t => s.devState.advances t.devState = true) hdev
      (fun _ ht => ht.advances) (fun _ => by rw [hdev]; rfl)
  · rw [evUsbReset_ignored hdev]; exact s.devState.advances_refl

/-- EV_ENUM_DONE: from ResettingBus to DefaultAddress, or the state is kept. -/
theorem evEnumDone_advances (s : State) : s.devState.advances (evEnumDone s).devState = true := by
  by_cases hdev : s.devState = .resettingBus
  · rw [evEnumDone_runs hdev, hdev]; rfl
  · rw [evEnumDone_ignored hdev]; exact s.devState.advances_refl

/-- Every operation but RESET and INIT advances the state, by the table of its writers. -/
theorem exec_advances (i : Instr) (hreset : i ≠ .reset) (hinit : ∀ v, i ≠ .init v) (ht : exec i s = .next t) :
    s.devState.advances t.devState = true := by
  by_cases hsession : i = .evSession
  · subst hsession; cases ht; exact evSession_advances s
  by_cases husbReset : i = .evUsbReset
  · subst husbReset; cases ht; exact evUsbReset_advances s
  by_cases henumDone : i = .evEnumDone
  · subst henumDone; cases ht; exact evEnumDone_advances s
  obtain ⟨hkept, -⟩ := contextWriters i s t ht
  rw [hkept hsession husbReset henumDone hreset hinit]
  exact s.devState.advances_refl

/-! ### The places of the sequencer -/

theorem State.enter_devState (s : State) (fw : FetchWord) : (s.enter fw).devState = s.devState := by
  cases fw with
  | gint start w | outEvt n start w | inEvt n start w =>
    simp only [State.enter]
    split <;> rfl
  | rxsts w | epaggOut w | epaggIn w | setup8 S | desc ty ix len => rfl

theorem State.afterReject_devState (s : State) (fw : FetchWord) (e : Reject) :
    (s.afterReject fw e).devState = s.devState := by
  unfold State.afterReject
  split <;> rfl

/-- RESET and INIT have no word, so a decoding place never executes them. -/
theorem decodeExec_advances {fw : FetchWord} (ht : s.decodeExec fw = .next t) :
    s.devState.advances t.devState = true := by
  rcases decodeExec_next_cases ht with ⟨i, hi, ht⟩ | ⟨e, -, rfl⟩
  · have hformat := decode_format s.par fw i hi
    rw [← s.enter_devState fw]
    refine exec_advances i ?_ (fun v => ?_) ht
    · rintro rfl; cases hformat
    · rintro rfl; cases hformat
  · rw [s.afterReject_devState]
    exact s.devState.advances_refl

/-- A busy-wait keeps the context if what follows it does (R140). -/
theorem spinOnce_sameContext {p : SpinPoint} {n : Nat} {next : State → State} {rest : List Frame}
    (hnext : ∀ u, SameContext u (next u)) (s : State) : SameContext s (spinOnce p n next rest s) :=
  spinOnce_rule (fun u hu => hu.sameContext.trans (hnext u))
    (fun u hu => hu.sameContext.trans (u.raiseFatal_sameContext _))
    (fun u _ hu => hu.sameContext.trans (u.goTo_sameContext _))

/-- A resumed busy-wait, whatever the answers, keeps the context: a flush ends with its second busy-wait. -/
theorem resumeSpin_sameContext (p : SpinPoint) (n : Nat) (s : State) : SameContext s (resumeSpin p n s) := by
  have hlast : ∀ q m u, SameContext u (spinOnce q m id [] u) := fun q m =>
    spinOnce_sameContext fun u => (OnlyTx.refl u).sameContext
  have hrequest : ∀ (u : State) rs, SameContext u (u.records rs) := fun u rs => ⟨rfl, rfl, rfl, rfl, rfl⟩
  cases p with
  | txIdle => exact spinOnce_sameContext (fun u => (hrequest u _).trans (hlast .txDone 0 _)) s
  | txDone => exact hlast .txDone n s
  | rxIdle => exact spinOnce_sameContext (fun u => (hrequest u _).trans (hlast .rxDone 0 _)) s
  | rxDone => exact hlast .rxDone n s

/-- At every place the state advances; the last part of EV_USB_RESET stands only in Powered (R163). -/
theorem resume_advances {f : Frame} (hwaits : f = .usbResetTail → s.devState = .powered) (ht : resume f s = .next t) :
    s.devState.advances t.devState = true := by
  unfold resume at ht
  split at ht
  · exact decodeExec_advances ht
  · split at ht
    · cases ht; exact s.devState.advances_refl
    · cases ht; exact s.devState.advances_refl
    · cases ht; exact s.devState.advances_refl
    · cases ht; exact (resumeSpin_sameContext _ _ s).advances
    · exact exec_advances .flushRx nofun nofun ht
    · cases ht; rw [hwaits rfl]; rfl
    · cases ht; exact s.devState.advances_refl

/-! ### The step -/

/-- INIT sets Uninitialized, and it is ignored where that is not the state already (R45, R283). -/
theorem execInit_advances (h : s.Inv) (v : Bool) (ht : exec (.init v) s = .next t) :
    s.devState.advances t.devState = true := by
  cases ht
  split_ifs with hseq
  · obtain ⟨hdev, -⟩ := h.beforeInit hseq
    rw [(initBody_context s v).devState, hdev]; rfl
  · exact s.devState.advances_refl

/-- The sequencer's step, but for a reset call: a place, another call of the host, or a wait. -/
theorem advance_advances (h : s.Inv) (hcall : s.calls.head? ≠ some .reset) (ht : s.advance = .next t) :
    s.devState.advances t.devState = true := by
  rcases advance_next_cases s t ht with
    ⟨cs, hcalls, -⟩ | ⟨v, cs, -, ht⟩ | ⟨f, rest, hcont, ht⟩ | ⟨cs, -, -, ht⟩ | ⟨-, -, -, rfl⟩
  · exact absurd (by rw [hcalls]; rfl) hcall
  · exact execInit_advances (s := { s with calls := cs }) (h.congr rfl) v ht
  · refine resume_advances (s := { s with cont := rest }) (fun hf => h.resetWaits ?_) ht
    simp [hcont, hf]
  · exact exec_advances (s := { s with calls := cs }) .irq nofun nofun ht
  · exact t.devState.advances_refl

end

/-- Settles O22: a step advances the state from place to place; outside its source state a trigger is a read at most. -/
theorem stepAdvancesDeviceState : Obligations.StepAdvancesDeviceState := by
  refine ⟨fun s t h hreset hcall ht => ?_, fun s t => ⟨fun hdev ht => ?_, fun hdev ht => ?_, fun hdev ht => ?_,
    fun a ht => ?_⟩⟩
  · rw [step_of_no_reset s (step_next_wf s t ht) hreset] at ht
    exact advance_advances h hcall ht
  · cases ht
    rw [evSession_ignored (.inr hdev)]
    exact (OnlyTx.fieldRead s _ _).sameContext.devState
  · cases ht
    rw [evUsbReset_ignored hdev]
  · cases ht
    rw [evEnumDone_ignored hdev]
  · cases ht
    exact (reqSetAddress_context s a).devState

end Sys2Proof.Machine
end

section
/-! PROOFS. The Event Dispatcher and the other decoding places: what a step runs and where it returns to (R181, R182, R184,
R201, R223, R225, R250, R255), the entry of a pass (R284), the rows ACK_ONLY (R184) and the fatal entry (R183, R304). -/

namespace Sys2Proof

/-! ## What the decoders give at a set bit -/

/-- Where a set bit is next, the dispatcher decodes that bit (R181). -/
theorem decode_gint_of_next (p : Params) {start j : Nat} {w : Word} (h : nextSet w start = some j) :
    decode p (.gint start w) = decodeGintBit p j := by simp only [decode, decodeGint, h]

/-- The OUT operation of a place of the inspection order, as a list (R109). -/
theorem outEventInstr_eq_getElem? (n : EpNum) (k : Nat) :
    outEventInstr n k = [Instr.oepXfrc n, .oepEpdisd n, .oepStup n, .oepOtepdis n, .oepNak n][k]? := by
  match k with
  | 0 | 1 | 2 | 3 | 4 => rfl
  | _ + 5 => rfl

/-- The IN operation of a place of the inspection order, as a list (R110). -/
theorem inEventInstr_eq_getElem? (n : EpNum) (k : Nat) :
    inEventInstr n k = [Instr.iepXfrc n, .iepEpdisd n, .iepNak n][k]? := by
  match k with
  | 0 | 1 | 2 => rfl
  | _ + 3 => rfl

/-- Where an inspected bit is next, an event decoder gives the operation of its place (R250, R255). -/
theorem decodeEvents_of_next {p : Params} {n : EpNum} {evs : List Field} {instrAt : Nat → Option Instr} {start k : Nat}
    {w : Word} {i : Instr} (hk : p.nextEvent n evs w start = some k) (hi : instrAt k = some i) :
    decodeEvents p n evs instrAt start w = .ok i := by simp only [decodeEvents, hk, hi]

/-- Where no inspected bit is left, it gives nothing (R111). -/
theorem decodeEvents_of_none {p : Params} {n : EpNum} {evs : List Field} (instrAt : Nat → Option Instr) {start : Nat}
    {w : Word} (h : p.nextEvent n evs w start = none) :
    decodeEvents p n evs instrAt start w = .error .nothingLeft := by simp only [decodeEvents, h]

/-- `1 << j` is the word of the number `2 ^ j` (R9). -/
theorem oneHot_eq_ofNat (j : Nat) : oneHot j = BitVec.ofNat 32 (2 ^ j) := by
  apply BitVec.eq_of_toNat_eq
  simp [oneHot, Nat.shiftLeft_eq]

end Sys2Proof

namespace Sys2Proof.Machine

/-! ## A step at a decoding place -/

/-- A place that decodes a word does so, and executes what it decodes. -/
theorem resume_of_word {f : Frame} {s : State} {fw : FetchWord} (h : f.word s = some fw) :
    resume f s = s.decodeExec fw := by
  unfold resume
  simp only [h]

theorem decodeExec_of_ok {s : State} {fw : FetchWord} {i : Instr} (h : decode s.par fw = .ok i) :
    s.decodeExec fw = exec i (s.enter fw) := by simp only [State.decodeExec, h]

theorem decodeExec_of_error {s : State} {fw : FetchWord} {e : Reject} (h : decode s.par fw = .error e) :
    s.decodeExec fw = .next (s.afterReject fw e) := by simp only [State.decodeExec, h]

/-! What each loop keeps around an operation: the bit being served and the place above it. -/

theorem enter_gint {s : State} {start j : Nat} {w : Word} (h : nextSet w start = some j) :
    s.enter (.gint start w) = { s with idx := idxOf j }.goTo (scanPlaces s.par j) := by simp only [State.enter, h]

theorem enter_outEvt {s : State} {n : EpNum} {start k : Nat} {w : Word}
    (h : s.par.nextEvent n outEventFields w start = some k) :
    s.enter (.outEvt n start w) = s.goTo [.outEvents (k + 1)] := by simp only [State.enter, h]

theorem enter_inEvt {s : State} {n : EpNum} {start k : Nat} {w : Word}
    (h : s.par.nextEvent n inEventFields w start = some k) :
    s.enter (.inEvt n start w) = s.goTo [.inEvents (k + 1)] := by simp only [State.enter, h]

section Step
variable {s : State} {f : Frame} {rest : List Frame} {fw : FetchWord}
variable (hwf : s.par.wf = true) (hreset : s.resetIn = none) (hcalls : ∀ c ∈ s.calls, c = .irq)
include hwf hreset hcalls

/-- A step at a place that decodes a word decodes it and executes its operation, with the place taken off. -/
theorem step_decodes (hcont : s.cont = f :: rest) (hword : f.word s = some fw) :
    step s = ({ s with cont := rest } : State).decodeExec fw := by
  rw [step_at s f rest hwf hreset hcalls hcont, resume_of_word ((f.word_cont s rest).trans hword)]

/-- The same where the word decodes. -/
theorem step_runs {i : Instr} (hcont : s.cont = f :: rest) (hword : f.word s = some fw) (hi : decode s.par fw = .ok i) :
    step s = exec i (({ s with cont := rest } : State).enter fw) :=
  (step_decodes hwf hreset hcalls hcont hword).trans (decodeExec_of_ok hi)

/-- The same where it does not. -/
theorem step_goes_on {e : Reject} (hcont : s.cont = f :: rest) (hword : f.word s = some fw)
    (he : decode s.par fw = .error e) : step s = .next (({ s with cont := rest } : State).afterReject fw e) :=
  (step_decodes hwf hreset hcalls hcont hword).trans (decodeExec_of_error he)

/-- The dispatcher's loop at a bit with a handler: the acknowledgement stands below the handler (R181, R182). -/
theorem step_scan_handled {start j : Nat} {i : Instr} {f : Field} (hcont : s.cont = .scan start :: rest)
    (hj : nextSet s.snap start = some j) (hf : s.par.handlerAt j = some f) (hi : eventInstr f = some i) :
    step s = exec i { s with idx := idxOf j, cont := .ackGint j :: .scan (j + 1) :: rest } := by
  rw [step_runs hwf hreset hcalls hcont rfl ((decode_gint_of_next s.par hj).trans (decodeGintBit_handled hf hi)),
    enter_gint hj, scanPlaces_handled hf]
  rfl

/-- At a bit without handler: its row ACK_ONLY (R184). -/
theorem step_scan_unhandled {start j : Nat} {i : Instr} (hcont : s.cont = .scan start :: rest)
    (hj : nextSet s.snap start = some j) (hnone : s.par.handlerAt j = none) (hi : ackOnlyAt j = some i) :
    step s = exec i { s with idx := idxOf j, cont := .scan (j + 1) :: rest } := by
  rw [step_runs hwf hreset hcalls hcont rfl ((decode_gint_of_next s.par hj).trans (decodeGintBit_unhandled hnone hi)),
    enter_gint hj, scanPlaces_unhandled hnone]
  rfl

/-- The inspection of an OUT event word goes on after the place served (R250). -/
theorem step_outEvents {start k : Nat} {i : Instr} (hcont : s.cont = .outEvents start :: rest)
    (hk : s.par.nextEvent s.epn outEventFields s.evt start = some k) (hi : outEventInstr s.epn k = some i) :
    step s = exec i { s with cont := .outEvents (k + 1) :: rest } :=
  (step_runs hwf hreset hcalls hcont rfl (decodeEvents_of_next hk hi)).trans
    (congrArg (exec i) (enter_outEvt (s := { s with cont := rest }) hk))

/-- So does that of an IN event word (R255). -/
theorem step_inEvents {start k : Nat} {i : Instr} (hcont : s.cont = .inEvents start :: rest)
    (hk : s.par.nextEvent s.epn inEventFields s.evt start = some k) (hi : inEventInstr s.epn k = some i) :
    step s = exec i { s with cont := .inEvents (k + 1) :: rest } :=
  (step_runs hwf hreset hcalls hcont rfl (decodeEvents_of_next hk hi)).trans
    (congrArg (exec i) (enter_inEvt (s := { s with cont := rest }) hk))

end Step

/-- Settles O11: each loop serves the next set bit of its word; the word of every other place decodes as it stands. -/
theorem stepServesSetBits : Obligations.StepServesSetBits := by
  intro s rest hwf hreset hcalls
  refine ⟨fun start j hcont hstart hj hset hlow => ?_, fun start k f i hcont hstart hf hset hlow hi => ?_,
    fun start k f i hcont hstart hf hset hlow hi => ?_, fun hcont => step_runs hwf hreset hcalls hcont rfl rfl,
    fun hcont => step_runs hwf hreset hcalls hcont rfl rfl, fun hcont => step_runs hwf hreset hcalls hcont rfl rfl,
    fun hcont => step_runs hwf hreset hcalls hcont rfl rfl,
    fun t i len hcont => step_runs hwf hreset hcalls hcont rfl rfl⟩
  · have hnext := (nextSet_eq_some_iff s.snap start j).mpr ⟨hstart, hj, hset, hlow⟩
    exact ⟨fun f i hf hi => step_scan_handled hwf hreset hcalls hcont hnext hf hi,
      fun i hnone hi => step_scan_unhandled hwf hreset hcalls hcont hnext hnone hi⟩
  · have hnext := (nextEvent_eq_some_iff s.par s.epn _ s.evt start k).mpr ⟨hstart, ⟨f, hf, hset⟩, hlow⟩
    exact step_outEvents hwf hreset hcalls hcont hnext ((outEventInstr_eq_getElem? s.epn k).trans hi)
  · have hnext := (nextEvent_eq_some_iff s.par s.epn _ s.evt start k).mpr ⟨hstart, ⟨f, hf, hset⟩, hlow⟩
    exact step_inEvents hwf hreset hcalls hcont hnext ((inEventInstr_eq_getElem? s.epn k).trans hi)

/-- Settles O12: the search for the next bit finds nothing, so the place decodes nothing and the loop ends. -/
theorem stepEndsLoops : Obligations.StepEndsLoops := by
  intro s rest start hwf hreset hcalls
  refine ⟨fun hcont hclear => ?_, fun hcont hclear => ?_, fun hcont hclear => ?_⟩
  · have hnext := (nextSet_eq_none_iff s.snap start).mpr hclear
    exact (step_at s _ rest hwf hreset hcalls hcont).trans (resume_scan_end hnext)
  · have hnext := (nextEvent_eq_none_iff s.par s.epn _ s.evt start).mpr hclear
    exact step_goes_on hwf hreset hcalls hcont rfl (decodeEvents_of_none (outEventInstr s.epn) hnext)
  · have hnext := (nextEvent_eq_none_iff s.par s.epn _ s.evt start).mpr hclear
    exact step_goes_on hwf hreset hcalls hcont rfl (decodeEvents_of_none (inEventInstr s.epn) hnext)

/-- Settles O10: the word fetched is that of the innermost place. -/
theorem stepRunsDecoded : Obligations.StepRunsDecoded := by
  intro s f rest fw i hwf hreset hcalls hcont hfetch hi
  have hword : f.word s = some fw := by simpa only [State.fetch, hcont] using hfetch
  exact step_runs hwf hreset hcalls hcont hword hi

/-! ## The entry of a pass (R181, R284) -/

/-- DISPATCH is one read of the status word, kept in `snap`, and the loop from bit 0 on. -/
theorem dispatch_eq (s : State) :
    dispatch s =
      { s.answerTaken with
        snap := s.answerValue
        cont := .scan 0 :: s.cont
        trace := s.trace ++ [.rdWord ⟨.intSts, 0⟩ s.answerValue] } := by
  simp [dispatch, State.goTo, State.record, Reg.glob]

/-- The state in which IRQ calls DISPATCH (R284). -/
def State.inHandler (s : State) : State :=
  { s with seq := .handler, cont := .irqExit :: s.cont, trace := s.trace ++ [.irqEnter] }

/-- IRQ in IDLE records its entry and calls DISPATCH, with its own end below. -/
theorem irqBody_eq (s : State) : irqBody s = dispatch s.inHandler := rfl

/-- The entry of IRQ uses up no answer. -/
theorem State.inHandler_answerTaken (s : State) : s.inHandler.answerTaken = s.answerTaken.inHandler := by
  unfold State.answerTaken State.inHandler; split <;> simp_all

/-- Settles O28: IRQ is its entry and DISPATCH. -/
theorem irqEntersDispatch : Obligations.IrqEntersDispatch := by
  refine fun s => ⟨fun hidle => ?_, congrArg Host.Outcome.next (dispatch_eq s)⟩
  have hexec : exec .irq s = .next (irqBody s) := by simp only [exec, execIrq, hidle, if_true]
  have hvalue : s.inHandler.answerValue = s.answerValue := rfl
  rw [hexec, irqBody_eq, dispatch_eq, State.inHandler_answerTaken, hvalue]
  simp [State.inHandler]

/-! ## The rows ACK_ONLY and the fatal entry (R183, R184, R304) -/

/-- Settles O31: the 25 rows are those of `ackOnlyAt`, each of which makes the dispatcher's own write. -/
theorem ackOnlyWritesItsBit : Obligations.AckOnlyWritesItsBit := by
  intro s x hx
  have hrow : ackOnlyAt x.1 = some x.2 := by
    revert x
    decide
  rw [exec_ackOnlyAt hrow, State.ackGint_eq, oneHot_eq_ofNat]
  rfl

/-- Settles O32: both operations raise the exception. -/
theorem fatalEntry : Obligations.FatalEntry :=
  fun s => ⟨fun c => congrArg Host.Outcome.next (s.raiseFatal_eq c),
    congrArg Host.Outcome.next (s.raiseFatal_eq .modeMismatch), rfl⟩

end Sys2Proof.Machine
end

section
/-! PROOFS. No operation but a row ACK_ONLY writes the global status register (R186): each operation keeps the writes of
`G.INT_STS` in the trace as they are. Since the trace only grows, none of the records it adds is such a write. -/

namespace Sys2Proof.Machine

/-- Whether a record writes `G.INT_STS`. -/
def Record.writesIntSts : Record → Bool
  | .wr r _ | .wrFields r _ => r == ⟨.intSts, 0⟩
  | _ => false

theorem Record.writesIntSts_eq_false_iff (r : Record) :
    r.writesIntSts = false ↔ (∀ v, r ≠ .wr ⟨.intSts, 0⟩ v) ∧ ∀ fs, r ≠ .wrFields ⟨.intSts, 0⟩ fs := by
  cases r <;> simp [Record.writesIntSts]

theorem cfgRecord_writesIntSts (p : Params) (v : Bool) (w : CfgWrite) :
    (cfgRecord p v w).writesIntSts = cfgWritesReg ⟨.intSts, 0⟩ w := by cases w <;> rfl

/-- A parameter list that does not write `G.INT_STS` makes no such record (R164, R167, R282). -/
theorem filter_cfgRecords {ws : List CfgWrite} (h : ∀ w ∈ ws, cfgWritesReg ⟨.intSts, 0⟩ w = false) (p : Params)
    (v : Bool) : (ws.map (cfgRecord p v)).filter Record.writesIntSts = [] := by
  simpa [cfgRecord_writesIntSts] using h

/-- The writes of `G.INT_STS` made so far, oldest first. -/
def State.acks (s : State) : List Record := s.trace.filter Record.writesIntSts

/-! ## The primitives (R10, R304, R306, R340) -/

section
variable (s : State) {t : State}

/-- Only the trace matters. -/
theorem State.acks_congr (h : t.trace = s.trace) : t.acks = s.acks := congrArg (List.filter _) h

theorem State.record_acks {r : Record} (h : r.writesIntSts = false) : (s.record r).acks = s.acks := by
  simp [State.acks, h]

theorem State.answerTaken_acks : s.answerTaken.acks = s.acks := s.acks_congr s.answerTaken_trace

theorem State.read_acks {r : Record} (h : r.writesIntSts = false) : (s.answerTaken.record r).acks = s.acks := by
  rw [State.record_acks _ h, State.answerTaken_acks]

theorem State.goTo_acks (fs : List Frame) : (s.goTo fs).acks = s.acks := rfl

theorem State.raiseFatal_acks (c : Cause) : (s.raiseFatal c).acks = s.acks := s.record_acks rfl

theorem State.reportTxAbort_acks (k : TxAbort) : (s.reportTxAbort k).acks = s.acks := s.record_acks rfl

theorem State.performWrites_acks {ws : List CfgWrite} (h : ∀ w ∈ ws, cfgWritesReg ⟨.intSts, 0⟩ w = false) :
    (s.performWrites ws).acks = s.acks := by
  rw [State.performWrites_eq]
  simp [State.acks, filter_cfgRecords h]

end

/-! ## WRITE_TX and the busy-waits (R140 to R145) -/

theorem writeTxSend_acks (data : List Byte) (length : Nat) (s : State) :
    (writeTxSend data length s).acks = s.acks := by
  simp [writeTxSend, pushWords_eq, pushRecords, rearmOut_eq, inReg, State.acks, Record.writesIntSts]

theorem writeTx_acks (data : List Byte) (length : Nat) (s : State) : (writeTx data length s).acks = s.acks := by
  have hread : ∀ (u : State) n f, (u.fieldRead (inReg .inCtl n) f).acks = u.acks := fun u n f => u.read_acks rfl
  have hspace : ∀ (u : State) n f, (u.fieldRead (inReg .inFifoSts n) f).acks = u.acks := fun u n f => u.read_acks rfl
  unfold writeTx
  dsimp only
  split_ifs
  · rw [State.reportTxAbort_acks, hread]
  · rw [State.reportTxAbort_acks, hspace, hread]
  · rw [writeTxSend_acks, hspace, hread]

section Spin
variable {next : State → State} (hnext : ∀ u, (next u).acks = u.acks) (rest : List Frame) (s : State)
include hnext

/-- A busy-wait keeps the writes of `G.INT_STS` if what follows it does. -/
theorem spinOnce_acks (p : SpinPoint) (n : Nat) : (spinOnce p n next rest s).acks = s.acks := by
  have hread : (s.fieldRead rstCtl p.field).acks = s.acks := s.read_acks rfl
  rcases spinOnce_cases p n next rest s with ⟨-, h⟩ | ⟨-, -, h⟩ | ⟨-, -, h⟩ <;> rw [h]
  · rw [hnext, hread]
  · rw [State.raiseFatal_acks, hread]
  · rw [State.goTo_acks, hread]

theorem flushTx_acks : (flushTx next rest s).acks = s.acks :=
  spinOnce_acks (fun u => (spinOnce_acks hnext rest _ .txDone 0).trans (u.record_acks rfl)) rest s .txIdle 0

theorem flushRx_acks : (flushRx next rest s).acks = s.acks :=
  spinOnce_acks (fun u => (spinOnce_acks hnext rest _ .rxDone 0).trans (u.record_acks rfl)) rest s .rxIdle 0

end Spin

/-! ## The operations -/

section
variable (s : State)

theorem dispatch_acks : (dispatch s).acks = s.acks := s.read_acks rfl

theorem irqBody_acks : (irqBody s).acks = s.acks := (dispatch_acks _).trans (s.record_acks (r := .irqEnter) rfl)

theorem initBody_acks (v : Bool) (h : ∀ w ∈ s.par.initWrites, cfgWritesReg ⟨.intSts, 0⟩ w = false) :
    (initBody v s).acks = s.acks :=
  (State.performWrites_acks { s.record (.init v) with
    vbusSense := v, devState := .uninitialized, addr := 0, txlen := 0 } h).trans (s.record_acks rfl)

theorem evSession_acks : (evSession s).acks = s.acks := by
  have hread : (s.fieldRead (.glob .otgCtl) .bSessionValid).acks = s.acks := s.read_acks rfl
  unfold evSession
  dsimp only
  split_ifs
  · exact hread
  · exact hread
  · exact (State.record_acks _ rfl).trans hread

theorem rearmOut_acks (n : EpNum) : (rearmOut n s).acks = s.acks := s.record_acks rfl

theorem armSetupOut0_acks : (armSetupOut0 s).acks = s.acks := (rearmOut_acks _ 0).trans (s.record_acks rfl)

theorem usbResetTail_acks : (usbResetTail s).acks = s.acks :=
  (armSetupOut0_acks { s.fieldsWrite (.glob .devCfg) [(.devAddr, 0)] with addr := 0 }).trans (s.record_acks rfl)

theorem evUsbReset_acks (h : ∀ w ∈ s.par.resetMaskWrites, cfgWritesReg ⟨.intSts, 0⟩ w = false) :
    (evUsbReset s).acks = s.acks := by
  unfold evUsbReset
  split_ifs
  · rfl
  · rw [flushTx_acks (flushRx_acks usbResetTail_acks _), s.performWrites_acks h]

theorem evEnumDone_acks (h : ∀ w ∈ s.par.enumUnmaskWrites, cfgWritesReg ⟨.intSts, 0⟩ w = false) :
    (evEnumDone s).acks = s.acks := by
  by_cases hdev : s.devState = .resettingBus
  · rw [evEnumDone_runs hdev]
    simp [State.acks, filter_cfgRecords h, Record.writesIntSts]
  · rw [evEnumDone_ignored hdev]

theorem rxSetupUpdate_acks (ep bc : Word) : (rxSetupUpdate ep bc s).acks = s.acks := by
  unfold rxSetupUpdate
  split_ifs
  · exact s.raiseFatal_acks _
  · exact s.raiseFatal_acks _
  · simp [copySetup, State.acks, Record.writesIntSts]

theorem epaggOut_acks (pending : BitVec 16) : (epaggOut pending s).acks = s.acks := by
  unfold epaggOut
  split
  · rfl
  · exact s.read_acks rfl

theorem epaggIn_acks (pending : BitVec 16) : (epaggIn pending s).acks = s.acks := by
  unfold epaggIn
  split
  · rfl
  · exact s.read_acks rfl

theorem oepStup_acks (n : EpNum) : (oepStup n s).acks = s.acks := by
  unfold oepStup
  split_ifs
  · exact s.raiseFatal_acks _
  · rfl

theorem stallEp0_acks : (stallEp0 s).acks = s.acks := (State.record_acks _ rfl).trans (s.record_acks rfl)

theorem unsupported_acks : (unsupported s).acks = s.acks := by
  unfold unsupported
  split_ifs
  · exact stallEp0_acks s
  · rfl

theorem reqSetAddress_acks (a : BitVec 7) : (reqSetAddress a s).acks = s.acks := by
  unfold reqSetAddress
  split_ifs
  · exact s.raiseFatal_acks _
  · exact (writeTx_acks [] 0 _).trans (s.record_acks rfl)

theorem sendDescriptor_acks (bytes : List Byte) (n : Nat) : (sendDescriptor bytes n s).acks = s.acks :=
  writeTx_acks _ n { s with txbuf := stageBytes s.txbuf bytes n, txlen := BitVec.ofNat 7 n }

theorem getDescriptor_acks (ty ix : Byte) (len : BitVec 16) : (getDescriptor ty ix len s).acks = s.acks := by
  have hlookup : (s.descLookup ty ix).acks = s.acks := s.record_acks rfl
  unfold getDescriptor
  dsimp only
  split
  · split_ifs
    · exact (sendDescriptor_acks _ _ _).trans hlookup
    · exact (unsupported_acks _).trans hlookup
  · exact (unsupported_acks _).trans hlookup

end

/-! ## The rows of the table, by format (R100, R122) -/

/-- No parameter list writes `G.INT_STS`. -/
def NoListAcks (p : Params) : Prop :=
  ∀ w ∈ p.initWrites ++ p.resetMaskWrites ++ p.enumUnmaskWrites, cfgWritesReg ⟨.intSts, 0⟩ w = false

section
variable {s t : State} {i : Instr}

/-- The handlers of the dispatcher's bits (R182). -/
theorem exec_event_acks (hlists : NoListAcks s.par) {f : Field} (hi : eventInstr f = some i) (ht : exec i s = .next t) :
    t.acks = s.acks := by
  unfold eventInstr at hi
  split at hi <;> cases hi <;> cases ht
  · exact s.raiseFatal_acks _
  · exact s.read_acks rfl
  · exact evUsbReset_acks s fun w hw => hlists w (by simp [hw])
  · exact evEnumDone_acks s fun w hw => hlists w (by simp [hw])
  · exact s.read_acks rfl
  · exact s.read_acks rfl
  · exact evSession_acks s

theorem exec_rxsts_acks (hi : Laws.tableFormat i = some .rxsts) (ht : exec i s = .next t) : t.acks = s.acks := by
  match i, hi with
  | .rxNak _ _ _, _ | .rxDataUpdate _ _ _, _ | .rxXferComplete _ _ _, _ | .rxSetupComplete _ _ _, _
  | .rxReserved _ _ _ _, _ => cases ht; rfl
  | .rxSetupUpdate ep bc _, _ => cases ht; exact rxSetupUpdate_acks s ep bc

theorem exec_epagg_acks (hi : Laws.tableFormat i = some .epagg) (ht : exec i s = .next t) : t.acks = s.acks := by
  match i, hi with
  | .epaggOut pending, _ => cases ht; exact epaggOut_acks s pending
  | .epaggIn pending, _ => cases ht; exact epaggIn_acks s pending

theorem exec_epevt_acks (hi : Laws.tableFormat i = some .epevt) (ht : exec i s = .next t) : t.acks = s.acks := by
  match i, hi with
  | .oepXfrc _, _ | .oepEpdisd _, _ | .oepOtepdis _, _ | .oepNak _, _ | .iepEpdisd _, _ | .iepNak _, _ =>
    cases ht; exact s.record_acks rfl
  | .oepStup n, _ => cases ht; exact oepStup_acks s n
  | .iepXfrc n, _ => cases ht; exact (State.record_acks _ rfl).trans (rearmOut_acks s n)

theorem exec_setup8_acks (hi : Laws.tableFormat i = some .setup8) (ht : exec i s = .next t) : t.acks = s.acks := by
  match i, hi with
  | .reqGetStatus, _ | .reqClearFeature, _ | .reqSetFeature, _ | .reqSetDescriptor, _ | .reqGetConfiguration, _
  | .reqSetConfiguration, _ | .reqGetInterface, _ | .reqSetInterface, _ | .reqSynchFrame, _ | .reqUnknown _, _
  | .getDescriptorString, _ | .getDescriptorInterface, _ | .getDescriptorEndpoint, _ | .getDescriptorQualifier, _
  | .getDescriptorOther _, _ => cases ht; exact unsupported_acks s
  | .reqSetAddress a, _ => cases ht; exact reqSetAddress_acks s a
  | .reqGetDescriptor _ _ _, _ => cases ht; rfl
  | .getDescriptorDevice ix len, _ | .getDescriptorConfiguration ix len, _ =>
    cases ht; exact getDescriptor_acks s _ ix len

/-- The rows without a word, of the formats `entry` and `internal`. -/
theorem exec_wordless_acks (hlists : NoListAcks s.par) (hi : Laws.tableFormat i = none) (ht : exec i s = .next t) :
    t.acks = s.acks := by
  match i, hi with
  | .reset, _ => cases ht; rfl
  | .init v, _ =>
    cases ht
    split_ifs
    · exact initBody_acks s v fun w hw => hlists w (by simp [hw])
    · rfl
  | .irq, _ =>
    cases ht
    split_ifs
    · exact irqBody_acks s
    · rfl
  | .dispatch, _ => cases ht; exact dispatch_acks s
  | .flushTx, _ => cases ht; exact flushTx_acks (fun _ => rfl) [] s
  | .flushRx, _ => cases ht; exact flushRx_acks (fun _ => rfl) [] s
  | .writeTx data len, _ =>
    simp only [exec, execWriteTx] at ht
    split_ifs at ht
    cases ht
    exact writeTx_acks data _ s
  | .rearmOut n, _ => cases ht; exact rearmOut_acks s n
  | .zlp, _ => cases ht; exact writeTx_acks [] 0 s
  | .armSetupOut0, _ => cases ht; exact armSetupOut0_acks s
  | .ep0Setup, _ => cases ht; rfl
  | .unsupported, _ => cases ht; exact unsupported_acks s
  | .stallEp0, _ => cases ht; exact stallEp0_acks s
  | .fatal c, _ => cases ht; exact s.raiseFatal_acks c
  | .txabort k, _ => cases ht; exact s.reportTxAbort_acks k

/-- Every row but ACK_ONLY. -/
theorem exec_acks (hlists : NoListAcks s.par) (hrow : ∀ j, ackOnlyAt j ≠ some i) (ht : exec i s = .next t) :
    t.acks = s.acks := by
  match hformat : Laws.tableFormat i with
  | some .gint =>
    rcases gint_cases i hformat with ⟨j, hj⟩ | ⟨f, hf⟩
    · exact absurd hj (hrow j)
    · exact exec_event_acks hlists hf ht
  | some .rxsts => exact exec_rxsts_acks hformat ht
  | some .epagg => exact exec_epagg_acks hformat ht
  | some .epevt => exact exec_epevt_acks hformat ht
  | some .setup8 => exact exec_setup8_acks hformat ht
  | none => exact exec_wordless_acks hlists hformat ht

end

/-- Settles O30: the records added are none of the writes that the trace kept. -/
theorem handlersDoNotAcknowledge : Obligations.HandlersDoNotAcknowledge := by
  intro i s t ht hrow hlists
  obtain ⟨rs, hrs⟩ := (exec_extends i s ht).trace
  have hacks : t.acks = s.acks := exec_acks hlists hrow ht
  have hnone : rs.filter Record.writesIntSts = [] := by simpa [State.acks, ← hrs] using hacks
  refine ⟨rs, hrs.symm, fun r hr => r.writesIntSts_eq_false_iff.mp ?_⟩
  simpa using List.filter_eq_nil_iff.mp hnone r hr

end Sys2Proof.Machine
end

section
/-! PROOFS. The RX Classifier (43_rx_classifier.md): the pop, the five kinds after which nothing happens, and the malformed
setup word. -/

namespace Sys2Proof.Machine

/-- Settles O39: the handler is one pop, kept in `rxw`, and the place of the case over the kind (R201). -/
theorem rxStatusPopped : Obligations.RxStatusPopped := by
  intro s
  refine congrArg Host.Outcome.next ?_
  simp [State.rxStatusPop_eq, State.goTo, State.record]

/-- Settles O40: each of the five rows runs `rxNothing` (R204 to R208). -/
theorem rxKindsWithoutData : Obligations.RxKindsWithoutData := by
  intro s kind ep bc dt i hi
  simp only [List.mem_cons, List.not_mem_nil, or_false] at hi
  rcases hi with rfl | rfl | rfl | rfl | rfl <;> rfl

section
variable (s : State) {ep bc : Word}

/-- The endpoint is tested first, whatever the length (R202). -/
theorem rxSetupUpdate_halts_of_ep (hep : ep ≠ 0) : rxSetupUpdate ep bc s = s.raiseFatal .setupEp := if_pos hep

/-- On endpoint 0 the length decides (R202). -/
theorem rxSetupUpdate_halts_of_length (hbc : bc ≠ 8) : rxSetupUpdate 0 bc s = s.raiseFatal .setupLen := by
  unfold rxSetupUpdate
  rw [if_neg (not_not_intro rfl), if_pos hbc]

end

/-- Settles O42: in either case the operation is only the fatal entry, which pops nothing. -/
theorem rxSetupMalformed : Obligations.RxSetupMalformed := by
  intro s ep bc dt
  refine ⟨fun hep => congrArg Host.Outcome.next ?_, ?_⟩
  · rw [rxSetupUpdate_halts_of_ep s hep, State.raiseFatal_eq]
  · rintro rfl hbc
    refine congrArg Host.Outcome.next ?_
    rw [rxSetupUpdate_halts_of_length s hbc, State.raiseFatal_eq]

end Sys2Proof.Machine
end

section
/-! PROOFS. The Endpoint-0 Control Protocol (44_ep0_control.md): the two selections, the operations that are UNSUPPORTED and
nothing else, REQ_SET_ADDRESS without a status packet, GET_DESCRIPTOR without an answer. -/

namespace Sys2Proof.Machine

/-- Settles O47: both operations only move the sequencer to a decoding place (R223, R225). -/
theorem protocolSelects : Obligations.ProtocolSelects := fun _ => ⟨rfl, fun _ _ _ => rfl⟩

/-! ## What is not answered (R228 to R244) -/

/-- STALL_EP0 is its two writes (R229). -/
theorem stallEp0_eq (s : State) : stallEp0 s = s.records stallRecords := s.records_records [_] [_]

/-- By default UNSUPPORTED does nothing (R244). -/
theorem unsupported_drops {s : State} (h : s.par.stallOnUnsupported = false) : unsupported s = s := by
  rw [unsupported, h, if_neg Bool.false_ne_true]

/-- Under the option UNSUPPORTED is STALL_EP0 (R229, R244). -/
theorem unsupported_stalls {s : State} (h : s.par.stallOnUnsupported = true) : unsupported s = stallEp0 s := if_pos h

/-- Settles O48: each of the sixteen rows runs UNSUPPORTED, which the option decides. -/
theorem unsupportedIsDropped : Obligations.UnsupportedIsDropped := by
  refine fun s r t => ⟨fun i hi => ?_, congrArg Host.Outcome.next (stallEp0_eq s)⟩
  have hexec : exec i s = .next (unsupported s) := by
    simp only [List.mem_cons, List.not_mem_nil, or_false] at hi
    rcases hi with rfl | rfl | rfl | rfl | rfl | rfl | rfl | rfl | rfl | rfl | rfl | rfl | rfl | rfl | rfl | rfl <;> rfl
  rw [hexec]
  refine ⟨fun h => congrArg Host.Outcome.next (unsupported_drops h), fun h => congrArg Host.Outcome.next ?_⟩
  exact (unsupported_stalls h).trans (stallEp0_eq s)

/-! ## REQ_SET_ADDRESS without a status packet (R224, R306) -/

/-- Outside its two states the request is only the fatal entry (R224). -/
theorem reqSetAddress_halts {s : State} (a : BitVec 7) (hdefault : s.devState ≠ .defaultAddress)
    (haddressed : s.devState ≠ .addressed) : reqSetAddress a s = s.raiseFatal .setAddressState :=
  if_pos ⟨hdefault, haddressed⟩

/-- Settles O50: the fatal entry alone, or the address programmed and the packet of length 0 aborted. -/
theorem setAddressNotAnswered : Obligations.SetAddressNotAnswered := by
  refine fun s a => ⟨fun hdefault haddressed => congrArg Host.Outcome.next ?_,
    fun hstate hinactive => congrArg Host.Outcome.next ?_⟩
  · rw [reqSetAddress_halts a hdefault haddressed, State.raiseFatal_eq]
  · rw [reqSetAddress_eq a hstate, zlp, writeTx_abortsInactive (by exact hinactive)]
    simp only [State.records_answerTaken, State.withAddr_answerTaken, State.records_trace, List.append_assoc]
    rfl

/-! ## GET_DESCRIPTOR without an answer (R225, R244) -/

section
variable {s : State} {t i : Byte} {len : BitVec 16}

/-- What UNSUPPORTED makes of the state after the lookup (R225, R244). -/
theorem unsupported_descLookup (s : State) (t i : Byte) :
    unsupported (s.descLookup t i) =
      s.records (.desc t i ((s.par.descLookup t i).map List.length) :: unsupportedRecords s.par) :=
  (unsupported_eq _).trans (s.records_records [_] _)

/-- No such descriptor: the lookup, then UNSUPPORTED. -/
theorem getDescriptor_notFound (h : s.par.descLookup t i = none) :
    getDescriptor t i len s = unsupported (s.descLookup t i) := by
  simp only [getDescriptor, h]

/-- Nothing to send: the lookup, then UNSUPPORTED. -/
theorem getDescriptor_empty {bytes : List Byte} (h : s.par.descLookup t i = some bytes)
    (hnone : len = 0 ∨ bytes = []) : getDescriptor t i len s = unsupported (s.descLookup t i) := by
  have hzero : ¬ 0 < min bytes.length len.toNat := by
    rcases hnone with rfl | rfl <;> simp
  simp only [getDescriptor, h, if_neg hzero]

/-- Both rows that look a descriptor up are GET_DESCRIPTOR of their tag (R226, R227). -/
theorem exec_getDescriptor_of_mem {x : Byte × Instr}
    (hx : x ∈ [(s.par.dtDevice, Instr.getDescriptorDevice i len), (s.par.dtConfiguration, .getDescriptorConfiguration i len)]) :
    exec x.2 s = .next (getDescriptor x.1 i len s) := by
  simp only [List.mem_cons, List.not_mem_nil, or_false] at hx
  rcases hx with rfl | rfl <;> rfl

end

/-- Settles O53: without an answer GET_DESCRIPTOR is the lookup and UNSUPPORTED. -/
theorem getDescriptorDropped : Obligations.GetDescriptorDropped := by
  intro s i len x hx
  rw [exec_getDescriptor_of_mem hx]
  refine ⟨fun h => congrArg Host.Outcome.next ?_, fun bytes h hnone => congrArg Host.Outcome.next ?_⟩
  · rw [getDescriptor_notFound h, unsupported_descLookup, h]
    rfl
  · rw [getDescriptor_empty h hnone, unsupported_descLookup, h]
    rfl

end Sys2Proof.Machine
end

section
/-! PROOFS. The Endpoint Event Handlers (45_endpoint_events.md): the read of the aggregate word, the acknowledgements of the
events, OEP_STUP. -/

namespace Sys2Proof.Machine

/-- The one read that both handlers begin with, and the place `f` that decodes a half of its word (R250, R255). -/
theorem memRead_epInt_goTo (s : State) (f : Frame) :
    { s.memRead (.glob .epInt) with agg := s.answerValue }.goTo [f] =
      { s.answerTaken with
        agg := s.answerValue
        cont := f :: s.cont
        trace := s.trace ++ [.rdWord ⟨.epInt, 0⟩ s.answerValue] } := by
  simp [State.goTo, State.record, Reg.glob]

/-- Settles O43: the two handlers differ in the place that decodes their half. -/
theorem endpointHandlersReadAggregate : Obligations.EndpointHandlersReadAggregate :=
  fun s => ⟨congrArg Host.Outcome.next (memRead_epInt_goTo s .outDecode),
    congrArg Host.Outcome.next (memRead_epInt_goTo s .inDecode)⟩

/-! ## The acknowledgements (R251 to R254, R256 to R259) -/

section
variable (s : State) (n : EpNum)

/-- An OUT event is acknowledged by the one-hot word of its bound position, in the event register of its endpoint (R68). -/
theorem ackOut_eq (f : Field) : ackOut n f s = s.records [.wr ⟨.outInt, n⟩ (1#32 <<< s.par.lo f n)] := rfl

/-- So is an IN event. -/
theorem ackIn_eq (f : Field) : ackIn n f s = s.records [.wr ⟨.inInt, n⟩ (1#32 <<< s.par.lo f n)] := rfl

/-- REARM_OUT before an acknowledgement leaves its two records in order (R144, R256). -/
theorem ackIn_rearmOut (f : Field) :
    ackIn n f (rearmOut n s) =
      s.records [.wrFields ⟨.outCtl, n⟩ [(.outCnak, 1), (.outEpena, 1)], .wr ⟨.inInt, n⟩ (1#32 <<< s.par.lo f n)] := by
  rw [ackIn_eq, rearmOut_eq]
  exact s.records_records [_] [_]

end

/-- Settles O45: four OUT and two IN events run the acknowledgement of their field, and IEP_XFRC runs REARM_OUT before it. -/
theorem endpointEventsAcknowledged : Obligations.EndpointEventsAcknowledged := by
  refine fun s n => ⟨fun x hx => ?_, fun x hx => ?_, congrArg Host.Outcome.next (ackIn_rearmOut s n .inXfrc)⟩
  · have hexec : exec x.2 s = .next (ackOut n x.1 s) := by
      simp only [List.mem_cons, List.not_mem_nil, or_false] at hx
      rcases hx with rfl | rfl | rfl | rfl <;> rfl
    exact hexec.trans (congrArg Host.Outcome.next (ackOut_eq s n x.1))
  · have hexec : exec x.2 s = .next (ackIn n x.1 s) := by
      simp only [List.mem_cons, List.not_mem_nil, or_false] at hx
      rcases hx with rfl | rfl <;> rfl
    exact hexec.trans (congrArg Host.Outcome.next (ackIn_eq s n x.1))

/-! ## OEP_STUP (R252) -/

/-- On endpoint 0 the protocol is called, with the acknowledgement below it. -/
theorem oepStup_zero (s : State) : oepStup 0 s = s.goTo [.setupDecode, .ackStup] := if_neg (not_not_intro rfl)

/-- On any other endpoint the operation is only the fatal entry. -/
theorem oepStup_halts (s : State) {n : EpNum} (h : n ≠ 0) : oepStup n s = s.raiseFatal .stupEp := if_pos h

/-- Settles O46: the call of the protocol, or the exception. -/
theorem setupPhaseDone : Obligations.SetupPhaseDone := by
  refine fun s => ⟨congrArg Host.Outcome.next (oepStup_zero s), fun n hn => congrArg Host.Outcome.next ?_⟩
  rw [oepStup_halts s hn, State.raiseFatal_eq]

end Sys2Proof.Machine
end

section
/-! PROOFS. The entry points: INIT in PRE_INIT (R281, R282), the calls that are ignored (R283), and the halted block, which a
reset alone leaves (R304, R305). -/

namespace Sys2Proof.Machine

/-! ## The calls outside the contract (R283) -/

/-- INIT is ignored outside PRE_INIT. -/
theorem exec_init_ignored {s : State} (h : s.seq ≠ .preInit) (v : Bool) : exec (.init v) s = .next s :=
  congrArg Host.Outcome.next (if_neg h)

/-- IRQ is ignored outside IDLE. -/
theorem exec_irq_ignored {s : State} (h : s.seq ≠ .idle) : exec .irq s = .next s := congrArg Host.Outcome.next (if_neg h)

/-- Settles O27: the mode is tested before anything else. -/
theorem entryCallsIgnored : Obligations.EntryCallsIgnored := fun _ => ⟨fun v h => exec_init_ignored h v, exec_irq_ignored⟩

/-! ## INIT in PRE_INIT (R281, R282) -/

/-- INIT is taken in PRE_INIT. -/
theorem exec_init_preInit {s : State} (h : s.seq = .preInit) (v : Bool) : exec (.init v) s = .next (initBody v s) :=
  congrArg Host.Outcome.next (if_pos h)

/-- The body of INIT: its record, the flag, the context, the writes under the new flag, and IDLE. -/
theorem initBody_eq (v : Bool) (s : State) :
    initBody v s =
      { s with
        vbusSense := v
        devState := .uninitialized
        addr := 0
        txlen := 0
        seq := .idle
        trace := s.trace ++ .init v :: s.par.initWrites.map (cfgRecord s.par v) } := by
  simp [initBody, State.performWrites_eq, State.record]

/-- The records of the default list, for either value of the flag (R282). -/
theorem default_initWrites_records (v : Bool) :
    Params.default.initWrites.map (cfgRecord Params.default v) =
      [.wrFields ⟨.devCtl, 0⟩ [(.softDisconnect, 1)],
       .wrFields ⟨.genCfg, 0⟩ [(.vbusSensing, if v then 1 else 0)],
       .wrFields ⟨.usbCfg, 0⟩ [(.turnaround, 6)],
       .wr ⟨.intMsk, 0⟩ 0x400C3012,
       .wrFields ⟨.ahbCfg, 0⟩ [(.globalIntEnable, 1)]] := by
  cases v <;> rfl

/-- Settles O26: the body of INIT, and the default list by evaluation. -/
theorem initRunsWriteList : Obligations.InitRunsWriteList := fun s v h =>
  ⟨(exec_init_preInit h v).trans (congrArg Host.Outcome.next (initBody_eq v s)), default_initWrites_records v⟩

/-! ## The halted block (R304, R305) -/

/-- In HALTED the sequencer stands nowhere, and every call but a reset is outside the contract: it is taken off and ignored. -/
theorem advance_halted {s t : State} (hseq : s.seq = .halted) (hcont : s.cont = [])
    (hcalls : s.calls.head? ≠ some .reset) (ht : s.advance = .next t) : t = { s with calls := s.calls.tail } := by
  rcases advance_next_cases s t ht with
    ⟨cs, hc, -⟩ | ⟨v, cs, hc, ht⟩ | ⟨f, rest, hf, -⟩ | ⟨cs, -, hc, ht⟩ | ⟨-, -, hrun, -⟩
  · exact absurd (by rw [hc]; rfl) hcalls
  · rw [exec_init_ignored (by simp [hseq])] at ht
    cases ht
    rw [hc]; rfl
  · cases hcont.symm.trans hf
  · rw [exec_irq_ignored (by simp [hseq])] at ht
    cases ht
    rw [hc]; rfl
  · exact absurd hseq hrun

/-- Settles O24: an ignored call is dropped and nothing else happens; a reset call is taken at once (R340). -/
theorem haltedLeavesByResetOnly : Obligations.HaltedLeavesByResetOnly := by
  intro s hinv hhalted hreset
  have hseq : s.seq = .halted := hinv.haltedMode.mp hhalted
  have hcont : s.cont = [] := hinv.cont_eq_nil (by simp [hseq])
  refine ⟨fun t hcalls ht => ?_, fun hwf hcalls => ?_⟩
  · rw [step_of_no_reset s (step_next_wf s t ht) hreset] at ht
    exact advance_halted hseq hcont hcalls ht
  · obtain ⟨cs, hc⟩ := List.head?_eq_some_iff.mp hcalls
    obtain ⟨htaken, -⟩ := stepTakesHostCalls s cs hwf hreset
    obtain ⟨t, ht, hpre, -, hrun, hcause, -⟩ := resetLeavesResetState { s with calls := cs }
    exact ⟨t, (htaken hc).trans ht, hrun, hcause, hpre⟩

end Sys2Proof.Machine
end

section
/-! PROOFS. The reset input in the middle of an operation, and in HALTED (R305, R340). -/

namespace Sys2Proof.Machine

variable {s t : State} {k : Nat} {rs : List Record}

/-- With the reset input asserted a step is `advanceToReset`. -/
theorem step_of_reset_input (hwf : s.par.wf = true) (hreset : s.resetIn = some k) : step s = s.advanceToReset k := by
  rw [step_of_wf s hwf]
  simp only [State.sequence, hreset]

/-- The new records are those that stand after the earlier ones in the trace. -/
theorem newRecords_eq_of_append (htrace : t.trace = s.trace ++ rs) : newRecords s t = rs := by
  simp [newRecords, htrace]

/-- A reset input that falls within the records of the operation cuts it off. -/
theorem advanceToReset_of_le (ht : s.advance = .next t) (hk : k ≤ (newRecords s t).length) :
    s.advanceToReset k = .next (cutByReset k s t) := by
  simp only [State.advanceToReset, ht, if_pos hk]

/-- A reset input that falls after them waits on, closer by their number. -/
theorem advanceToReset_of_lt (ht : s.advance = .next t) (hk : (newRecords s t).length < k) :
    s.advanceToReset k = .next { t with resetIn := some (k - (newRecords s t).length) } := by
  simp only [State.advanceToReset, ht, if_neg hk.not_ge]

/-- Where the sequencer performs no step, the reset input alone resets the block. -/
theorem advanceToReset_of_fault {e : Fault} (h : s.advance = .fault e) :
    s.advanceToReset k = .next { s with resetIn := none }.resetBlock := by
  simp only [State.advanceToReset, h]

/-- Of the new records the cut keeps the first `k`. -/
theorem cutByReset_trace (s t : State) (k : Nat) : (cutByReset k s t).trace = s.trace ++ (newRecords s t).take k := rfl

/-- After the cut the block is at the reset values. -/
theorem cutByReset_atReset (s t : State) (k : Nat) : (cutByReset k s t).AtReset := State.resetBlock_atReset _

/-- The cut uses the reset input up. -/
theorem cutByReset_resetIn (s t : State) (k : Nat) : (cutByReset k s t).resetIn = none := rfl

/-- Settles O17: the records of the operation are compared with the count of the reset input; the halted block makes none. -/
theorem resetCutsOperation : Obligations.ResetCutsOperation := by
  refine ⟨fun s t k rs hwf hreset ht htrace => ?_, fun s k hwf hreset hseq hcont hcalls => ?_⟩
  · have hrs : newRecords s t = rs := newRecords_eq_of_append htrace
    rw [step_of_reset_input hwf hreset, ← hrs]
    exact ⟨fun hk => ⟨cutByReset k s t, advanceToReset_of_le ht hk, cutByReset_trace s t k, cutByReset_atReset s t k,
      cutByReset_resetIn s t k, (cutByReset_extends k (advance_extends s ht)).par⟩, advanceToReset_of_lt ht⟩
  · have hfault : s.advance = .fault (.halted s.fatalCause) := by rw [advance_idle s hcalls hcont, if_pos hseq]
    rw [step_of_reset_input hwf hreset, advanceToReset_of_fault hfault]
    exact ⟨_, rfl, rfl, State.resetBlock_atReset _, rfl, rfl, rfl, hcalls⟩

end Sys2Proof.Machine
end
